-- ==== Sys2Proof/Word.lean ====
section
/-! DEFINITION. The word types of the ETH256 core: 256-bit values, 32-bit bus words, bytes (00_scope.md R9, R11). -/

namespace Sys2Proof

/-- A 256-bit pattern; a command reads it as unsigned or signed (10_state.md R21). -/
abbrev U256 := BitVec 256

/-- A 32-bit bus word, also a command word (20_memory.md R52, 30_encoding.md R80). -/
abbrev Word := BitVec 32

/-- One byte of BUF (10_state.md R35). -/
abbrev Byte := BitVec 8

end Sys2Proof
end

