-- ==== Sys2Proof/Syntax.lean ====
section
/-! DEFINITION. The commands of the block, one constructor per row of spec/opcode_table.json
(30_encoding.md R83). -/

namespace Sys2Proof

/-- The primary destination `dst`, chosen by the IP bit: RES for IP = 0, OPA for IP = 1 (30_encoding.md R84). -/
inductive Dst where
  | res
  | opa
  deriving DecidableEq, Repr

/-- The digit alphabet, chosen by the UC bit: lower for UC = 0, upper for UC = 1 (30_encoding.md R85). -/
inductive DigitCase where
  | lower
  | upper
  deriving DecidableEq, Repr

/-- One command. Operands come from registers (30_encoding.md R82); the word carries the destination,
the digit case and the 6-bit RADIX only. -/
inductive Instr where
  /-- ADD: wrapping addition (R102). -/
  | add (dst : Dst)
  /-- ADDC.U: unsigned checked addition (R103). -/
  | addcU (dst : Dst)
  /-- ADDC.S: signed checked addition (R104). -/
  | addcS (dst : Dst)
  /-- SUB: wrapping subtraction (R105). -/
  | sub (dst : Dst)
  /-- SUBB.U: unsigned checked subtraction (R106). -/
  | subbU (dst : Dst)
  /-- SUBB.S: signed checked subtraction (R107). -/
  | subbS (dst : Dst)
  /-- MUL: truncating multiplication (R108). -/
  | mul (dst : Dst)
  /-- MULW.U: unsigned widening multiplication with overflow (R109). -/
  | mulwU (dst : Dst)
  /-- MULW.S: signed widening multiplication with overflow (R110). -/
  | mulwS (dst : Dst)
  /-- SHL: logical shift left (R132). -/
  | shl (dst : Dst)
  /-- SHR.U: logical shift right (R133). -/
  | shrU (dst : Dst)
  /-- SHR.S: arithmetic shift right (R134). -/
  | shrS (dst : Dst)
  /-- ROL: rotate left (R135). -/
  | rol (dst : Dst)
  /-- ROR: rotate right (R136). -/
  | ror (dst : Dst)
  /-- CLZ: count leading zero bits (R137). -/
  | clz (dst : Dst)
  /-- CTZ: count trailing zero bits (R138). -/
  | ctz (dst : Dst)
  /-- DIVREM.U: unsigned division with remainder (R151). -/
  | divremU (dst : Dst)
  /-- DIVREM.S: signed division with remainder (R152). -/
  | divremS (dst : Dst)
  /-- FMT.U: format the unsigned reading of OPA (R167). -/
  | fmtU (letters : DigitCase) (radix : BitVec 6)
  /-- FMT.S: format the signed reading of OPA (R168). -/
  | fmtS (letters : DigitCase) (radix : BitVec 6)
  /-- PARSE.U: parse unsigned text (R181). -/
  | parseU (dst : Dst) (radix : BitVec 6)
  /-- PARSE.S: parse signed text (R181). -/
  | parseS (dst : Dst) (radix : BitVec 6)
  /-- TOBE: encode OPA as 32 big-endian bytes (R196). -/
  | tobe
  /-- TOLE: encode OPA as 32 little-endian bytes (R197). -/
  | tole
  /-- FROMBE: decode 32 big-endian bytes (R198). -/
  | frombe (dst : Dst)
  /-- FROMLE: decode 32 little-endian bytes (R199). -/
  | fromle (dst : Dst)
  /-- TOCOMPACT: encode OPA as compact big-endian bytes (R200). -/
  | tocompact
  /-- FROMCOMPACT: decode compact big-endian bytes (R201). -/
  | fromcompact (dst : Dst)
  deriving DecidableEq, Repr

/-- The mnemonic of 30_encoding.md R83. -/
def Instr.mnemonic : Instr → String
  | .add _ => "ADD"
  | .addcU _ => "ADDC.U"
  | .addcS _ => "ADDC.S"
  | .sub _ => "SUB"
  | .subbU _ => "SUBB.U"
  | .subbS _ => "SUBB.S"
  | .mul _ => "MUL"
  | .mulwU _ => "MULW.U"
  | .mulwS _ => "MULW.S"
  | .shl _ => "SHL"
  | .shrU _ => "SHR.U"
  | .shrS _ => "SHR.S"
  | .rol _ => "ROL"
  | .ror _ => "ROR"
  | .clz _ => "CLZ"
  | .ctz _ => "CTZ"
  | .divremU _ => "DIVREM.U"
  | .divremS _ => "DIVREM.S"
  | .fmtU _ _ => "FMT.U"
  | .fmtS _ _ => "FMT.S"
  | .parseU _ _ => "PARSE.U"
  | .parseS _ _ => "PARSE.S"
  | .tobe => "TOBE"
  | .tole => "TOLE"
  | .frombe _ => "FROMBE"
  | .fromle _ => "FROMLE"
  | .tocompact => "TOCOMPACT"
  | .fromcompact _ => "FROMCOMPACT"

end Sys2Proof
end

