-- ==== Sys2Proof/WellFormed.lean ====
section
/-! DEFINITION. Which commands have a legal word (30_encoding.md R85, R86, R88): the radix and case of FMT.
Every other field is legal by its type. -/

namespace Sys2Proof

/-- FMT formats radix 2, 8, 10 and 16 only (30_encoding.md R88 condition 5). -/
def fmtRadixLegal (radix : BitVec 6) : Bool :=
  radix.toNat ∈ [2, 8, 10, 16]

/-- Uppercase digits need radix 16 (30_encoding.md R88 condition 4). -/
def fmtCaseLegal (letters : DigitCase) (radix : BitVec 6) : Bool :=
  letters = .lower ∨ radix.toNat = 16

/-- The field constraint of the FMT rows (30_encoding.md R89). -/
def fmtLegal (letters : DigitCase) (radix : BitVec 6) : Bool :=
  fmtRadixLegal radix && fmtCaseLegal letters radix

/-- A command whose word passes the decode check (30_encoding.md R88). -/
def Instr.wellFormed : Instr → Bool
  | .fmtU letters radix => fmtLegal letters radix
  | .fmtS letters radix => fmtLegal letters radix
  | .add _ | .addcU _ | .addcS _ | .sub _ | .subbU _ | .subbS _ | .mul _ | .mulwU _ | .mulwS _
  | .shl _ | .shrU _ | .shrS _ | .rol _ | .ror _ | .clz _ | .ctz _ | .divremU _ | .divremS _
  | .parseU _ _ | .parseS _ _ | .tobe | .tole | .frombe _ | .fromle _ | .tocompact | .fromcompact _ => true

end Sys2Proof
end

