-- ==== Sys2Proof/Decode.lean ====
section
/-! DEFINITION. The decoder of command words (30_encoding.md R81 to R89), total and rejecting by name, then
the encoder written from the same tables, and the assembler syntax of R91. -/

namespace Sys2Proof

/-- Why the decode check of 30_encoding.md R88 fails; its six conditions, by name. The block answers every
one of them with ILLEGAL_COMMAND. -/
inductive DecodeError where
  /-- Condition 1: OP is not an OP of R83. -/
  | unassignedOp
  /-- Condition 2: a reserved bit is set. -/
  | reservedBits
  /-- Condition 3: IP = 1 on a command that writes BUF. -/
  | ipNotAllowed
  /-- Condition 4: UC = 1 outside FMT in radix 16. -/
  | ucNotAllowed
  /-- Condition 5: FMT in a radix other than 2, 8, 10 and 16. -/
  | fmtRadix
  /-- Condition 6: RADIX is not 0 on a command that takes none. -/
  | radixNotZero
  deriving DecidableEq, Repr

/-- The four classes of row of 30_encoding.md R89, each with the command its free fields make. -/
inductive OpRow where
  | freeIp (mk : Dst → Instr)
  | noField (i : Instr)
  | fmt (mk : DigitCase → BitVec 6 → Instr)
  | parse (mk : Dst → BitVec 6 → Instr)

/-- The row an OP value selects (30_encoding.md R83, R87): none for an unassigned OP. -/
def opRow (op : Nat) : Option OpRow :=
  match op with
  | 0x01 => some (.freeIp .add)
  | 0x02 => some (.freeIp .addcU)
  | 0x03 => some (.freeIp .addcS)
  | 0x04 => some (.freeIp .sub)
  | 0x05 => some (.freeIp .subbU)
  | 0x06 => some (.freeIp .subbS)
  | 0x07 => some (.freeIp .mul)
  | 0x08 => some (.freeIp .mulwU)
  | 0x09 => some (.freeIp .mulwS)
  | 0x10 => some (.freeIp .shl)
  | 0x11 => some (.freeIp .shrU)
  | 0x12 => some (.freeIp .shrS)
  | 0x13 => some (.freeIp .rol)
  | 0x14 => some (.freeIp .ror)
  | 0x15 => some (.freeIp .clz)
  | 0x16 => some (.freeIp .ctz)
  | 0x20 => some (.freeIp .divremU)
  | 0x21 => some (.freeIp .divremS)
  | 0x30 => some (.fmt .fmtU)
  | 0x31 => some (.fmt .fmtS)
  | 0x38 => some (.parse .parseU)
  | 0x39 => some (.parse .parseS)
  | 0x40 => some (.noField .tobe)
  | 0x41 => some (.noField .tole)
  | 0x42 => some (.freeIp .frombe)
  | 0x43 => some (.freeIp .fromle)
  | 0x44 => some (.noField .tocompact)
  | 0x45 => some (.freeIp .fromcompact)
  | _ => none

/-- The destination the IP bit names (30_encoding.md R84). -/
def dstOfIp (ip : Bool) : Dst := if ip then .opa else .res

/-- The alphabet the UC bit names (30_encoding.md R85). -/
def caseOfUc (uc : Bool) : DigitCase := if uc then .upper else .lower

/-- The field checks of 30_encoding.md R88, conditions 3 to 6, for a row. -/
def decodeFields (row : OpRow) (ip uc : Bool) (radix : BitVec 6) : Except DecodeError Instr :=
  match row with
  | .freeIp mk =>
    if uc then .error .ucNotAllowed
    else if radix ≠ 0 then .error .radixNotZero
    else .ok (mk (dstOfIp ip))
  | .noField i =>
    if ip then .error .ipNotAllowed
    else if uc then .error .ucNotAllowed
    else if radix ≠ 0 then .error .radixNotZero
    else .ok i
  | .fmt mk =>
    if ip then .error .ipNotAllowed
    else if !fmtRadixLegal radix then .error .fmtRadix
    else if !fmtCaseLegal (caseOfUc uc) radix then .error .ucNotAllowed
    else .ok (mk (caseOfUc uc) radix)
  | .parse mk =>
    if uc then .error .ucNotAllowed
    else .ok (mk (dstOfIp ip) radix)

/-- The decode check of a command word (30_encoding.md R81, R88). It reads no register. -/
def decode (c : Word) : Except DecodeError Instr :=
  match opRow (c.extractLsb' 0 8).toNat with
  | none => .error .unassignedOp
  | some row =>
    if c.extractLsb' 10 6 ≠ 0 ∨ c.extractLsb' 22 10 ≠ 0 then .error .reservedBits
    else decodeFields row (c.getLsbD 8) (c.getLsbD 9) (c.extractLsb' 16 6)

/-- The command word with these fields and every reserved bit zero (30_encoding.md R81). -/
def commandWord (op : BitVec 8) (ip uc : Bool) (radix : BitVec 6) : Word :=
  (0 : BitVec 10) ++ radix ++ (0 : BitVec 6) ++ BitVec.ofBool uc ++ BitVec.ofBool ip ++ op

/-- The OP value (30_encoding.md R83). -/
def Instr.opcode : Instr → BitVec 8
  | .add _ => 0x01
  | .addcU _ => 0x02
  | .addcS _ => 0x03
  | .sub _ => 0x04
  | .subbU _ => 0x05
  | .subbS _ => 0x06
  | .mul _ => 0x07
  | .mulwU _ => 0x08
  | .mulwS _ => 0x09
  | .shl _ => 0x10
  | .shrU _ => 0x11
  | .shrS _ => 0x12
  | .rol _ => 0x13
  | .ror _ => 0x14
  | .clz _ => 0x15
  | .ctz _ => 0x16
  | .divremU _ => 0x20
  | .divremS _ => 0x21
  | .fmtU _ _ => 0x30
  | .fmtS _ _ => 0x31
  | .parseU _ _ => 0x38
  | .parseS _ _ => 0x39
  | .tobe => 0x40
  | .tole => 0x41
  | .frombe _ => 0x42
  | .fromle _ => 0x43
  | .tocompact => 0x44
  | .fromcompact _ => 0x45

/-- The destination field, for the commands that have one (30_encoding.md R84). -/
def Instr.dst? : Instr → Option Dst
  | .add dst => some dst
  | .addcU dst => some dst
  | .addcS dst => some dst
  | .sub dst => some dst
  | .subbU dst => some dst
  | .subbS dst => some dst
  | .mul dst => some dst
  | .mulwU dst => some dst
  | .mulwS dst => some dst
  | .shl dst => some dst
  | .shrU dst => some dst
  | .shrS dst => some dst
  | .rol dst => some dst
  | .ror dst => some dst
  | .clz dst => some dst
  | .ctz dst => some dst
  | .divremU dst => some dst
  | .divremS dst => some dst
  | .fmtU _ _ => none
  | .fmtS _ _ => none
  | .parseU dst _ => some dst
  | .parseS dst _ => some dst
  | .tobe => none
  | .tole => none
  | .frombe dst => some dst
  | .fromle dst => some dst
  | .tocompact => none
  | .fromcompact dst => some dst

/-- The digit case and radix of a FMT command. -/
def Instr.fmtFields? : Instr → Option (DigitCase × BitVec 6)
  | .add _ => none
  | .addcU _ => none
  | .addcS _ => none
  | .sub _ => none
  | .subbU _ => none
  | .subbS _ => none
  | .mul _ => none
  | .mulwU _ => none
  | .mulwS _ => none
  | .shl _ => none
  | .shrU _ => none
  | .shrS _ => none
  | .rol _ => none
  | .ror _ => none
  | .clz _ => none
  | .ctz _ => none
  | .divremU _ => none
  | .divremS _ => none
  | .fmtU letters radix => some (letters, radix)
  | .fmtS letters radix => some (letters, radix)
  | .parseU _ _ => none
  | .parseS _ _ => none
  | .tobe => none
  | .tole => none
  | .frombe _ => none
  | .fromle _ => none
  | .tocompact => none
  | .fromcompact _ => none

/-- The radix of a PARSE command. -/
def Instr.parseRadix? : Instr → Option (BitVec 6)
  | .add _ => none
  | .addcU _ => none
  | .addcS _ => none
  | .sub _ => none
  | .subbU _ => none
  | .subbS _ => none
  | .mul _ => none
  | .mulwU _ => none
  | .mulwS _ => none
  | .shl _ => none
  | .shrU _ => none
  | .shrS _ => none
  | .rol _ => none
  | .ror _ => none
  | .clz _ => none
  | .ctz _ => none
  | .divremU _ => none
  | .divremS _ => none
  | .fmtU _ _ => none
  | .fmtS _ _ => none
  | .parseU _ radix => some radix
  | .parseS _ radix => some radix
  | .tobe => none
  | .tole => none
  | .frombe _ => none
  | .fromle _ => none
  | .tocompact => none
  | .fromcompact _ => none

/-- The IP bit of a command. -/
def Instr.ip (i : Instr) : Bool := i.dst? = some .opa

/-- The UC bit of a command. -/
def Instr.uc (i : Instr) : Bool := i.fmtFields?.map Prod.fst = some .upper

/-- The RADIX field of a command: 0 where it has none (30_encoding.md R86). -/
def Instr.radix (i : Instr) : BitVec 6 :=
  match i.fmtFields?, i.parseRadix? with
  | some (_, radix), _ => radix
  | none, some radix => radix
  | none, none => 0

/-- The one word of a command (30_encoding.md R80, R81). -/
def encode (i : Instr) : Word := commandWord i.opcode i.ip i.uc i.radix

/-- The command in the assembler syntax of 30_encoding.md R91. `r=` is written for the commands that take a
radix (DEDUCED, notes/assumptions/9.md, safe). -/
def Instr.text (i : Instr) : String :=
  i.mnemonic ++ (if i.ip then ".ip" else "") ++
    (match i.fmtFields?, i.parseRadix? with
      | none, none => ""
      | _, _ => " r=" ++ toString i.radix.toNat) ++
    (if i.uc then " uc" else "")

/-- The command the decoder reads from the low `nbits` bits of `w`, every bit above them 0. The block has no
second word, so a value that needs more than 32 bits is no command (30_encoding.md R80). -/
def decodeTableWord (nbits w : Nat) : Option Instr :=
  if w % 2 ^ nbits < 2 ^ 32 then
    match decode (BitVec.ofNat 32 (w % 2 ^ nbits)) with
    | .ok i => some i
    | .error _ => none
  else none

end Sys2Proof
end

