-- ==== Sys2Proof/Config.lean ====
section
/-! DEFINITION. The parameters fixed when the block is built (00_scope.md R9, 70_reset_and_hazards.md R244).
Each is plain data, held in `State.config`, so that a claim about every state covers every value of
every parameter (DEDUCED, notes/assumptions/8.md). No access and no command changes them. -/

namespace Sys2Proof

/-- `SDIV_MIN_NEG1`: DIVREM.S of -2^255 by -1 (42_division.md R154). -/
inductive SdivMinNeg1 where
  | wrap
  | fault
  deriving DecidableEq, Repr

/-- `ROT_COUNT`: ROL and ROR by a count of 256 or more (41_bitops.md R131). -/
inductive RotCount where
  | fault
  | modulo
  deriving DecidableEq, Repr

/-- `SIGNED_RADIX_FMT`: FMT.S in radix 2, 8 and 16 (43_formatter.md R168). -/
inductive SignedRadixFmt where
  | twosComplement
  | signMagnitude
  deriving DecidableEq, Repr

/-- `COMPACT_ZERO`: the compact encoding of zero (45_codec.md R200). -/
inductive CompactZero where
  | empty
  | oneZeroByte
  deriving DecidableEq, Repr

/-- The parameters of 00_scope.md R9, and the page of the platform address `ETH256_BASE`
(20_memory.md R51), which is 1 KiB aligned (92_eei_decisions.md D6) and so a multiple of 1024. -/
structure Config where
  sdivMinNeg1 : SdivMinNeg1
  rotCount : RotCount
  signedRadixFmt : SignedRadixFmt
  compactZero : CompactZero
  basePage : Nat
  deriving DecidableEq, Repr

/-- The defaults of 00_scope.md R9. `basePage` is OPEN in the spec; 0 is a DESIGN CHOICE
(notes/assumptions/3.md, unsafe only for a claim that names an absolute address). -/
def Config.standard : Config where
  sdivMinNeg1 := .wrap
  rotCount := .fault
  signedRadixFmt := .twosComplement
  compactZero := .empty
  basePage := 0

/-- `BUF_SIZE` (00_scope.md R9). -/
def bufSize : Nat := 512

end Sys2Proof
end

