-- ==== Sys2Proof/Machine/State.lean ====
section
/-! DEFINITION. The state of the block (10_state.md R20, R28), the host accesses that drive it
(20_memory.md R69), the ways a run ends early (60_exceptions.md R219), and the state after reset (10_state.md R38). -/

namespace Sys2Proof.Machine

/-- How a run ends early: the model faults of 60_exceptions.md R219. They are outcomes of a model and not
states of the block; the block's own faults are in STATUS and FCMD. -/
inductive Fault where
  /-- UNWRITTEN_READ. Raised by a command, or a host read, that reads a register word or BUF byte nothing has
  written since reset (10_state.md R28: "A model must not give such a read a value"; 92_eei_decisions.md D25;
  93_implementation_defined.md U13). Safe: the run stops where the spec gives no value. -/
  | unwrittenRead
  /-- BUS_ERROR. Raised by a host access that is not a 32-bit aligned access of the window (20_memory.md R55).
  Safe: the block changes nothing, and the run stops. -/
  | busError
  deriving DecidableEq, Repr

/-- Why a step gives no meaning to a command. No command is refused: every arm of `exec` has its meaning. -/
inductive Refusal where
  /-- A command whose meaning is not modelled, by its mnemonic. Raised by no one; safe. -/
  | notModelled (mnemonic : String)
  deriving DecidableEq, Repr

/-- The block's own fault causes, but NONE (60_exceptions.md R211). -/
inductive FaultCause where
  | illegalCommand
  | shiftRange
  | divideByZero
  | radixRange
  | lenRange
  | signedDivOverflow
  deriving DecidableEq, Repr

/-- The kinds of recoverable data error, but OK (10_state.md R33). -/
inductive ErrKind where
  | empty
  | invalidDigit
  | posOverflow
  | negOverflow
  | lengthExceeded
  deriving DecidableEq, Repr

/-- A 256-bit register: its pattern, and for each of its eight 32-bit words the mark that something has
written it since reset (10_state.md R28). The word order is that of 20_memory.md R53. -/
structure Reg256 where
  bits : U256
  written : Vector Bool 8
  deriving DecidableEq, Repr

/-- A 32-bit register with its written mark (10_state.md R28). -/
structure Reg32 where
  bits : Word
  written : Bool
  deriving DecidableEq, Repr

/-- The registers of 10_state.md R20, as the host names them. -/
inductive RegName where
  | opa
  | opb
  | res
  | res2
  | cnt
  | len
  | status
  | cmd
  | fcmd
  deriving DecidableEq, Repr

/-- The 256-bit registers the host can write (20_memory.md R69). -/
inductive OperandReg where
  | opa
  | opb
  deriving DecidableEq, Repr

/-- The 32-bit registers the host can write; a write to CMD issues a command (20_memory.md R69). -/
inductive ControlReg where
  | cnt
  | len
  | cmd
  deriving DecidableEq, Repr

/-- One access presented to the block: the bus view and the register view of 20_memory.md R69, and the reset
input of 70_reset_and_hazards.md R240, which is taken between accesses (R241). -/
inductive HostOp where
  /-- A bus read of `width` bits at a platform address (20_memory.md R52, R55). -/
  | busRead (width addr : Nat)
  /-- A bus write of `width` bits at a platform address. `data` is the word written when the width is 32;
  an access of another width is an error whatever it carries. -/
  | busWrite (width addr : Nat) (data : Word)
  /-- `ReadReg(r)`. -/
  | readReg (r : RegName)
  /-- `WriteReg(r, v)` with a whole 256-bit value. -/
  | writeOperand (r : OperandReg) (v : U256)
  /-- `WriteReg(r, v)` with a 32-bit value. -/
  | writeControl (r : ControlReg) (v : Word)
  /-- `ReadBuf(i)`. -/
  | readBuf (i : Fin 512)
  /-- `WriteBuf(i, b)`. -/
  | writeBuf (i : Fin 512) (b : Byte)
  /-- The reset input is asserted. -/
  | reset
  deriving DecidableEq, Repr

/-- What the host gets from a read. -/
inductive Reply where
  | word (v : Word)
  | wide (v : U256)
  | byte (v : Byte)
  deriving DecidableEq, Repr

/-- The state of the block. CMD has no field: it holds no state a later access can observe (10_state.md R29).
`buf` is BUF by byte index; a byte it does not list is unwritten. `config` holds the build parameters,
which never change. `hostOps` and `replies` are the model's own (notes/assumptions/2.md): the accesses
presented and not yet performed, oldest first, and the values read, latest first. -/
structure State where
  config : Config
  opa : Reg256
  opb : Reg256
  res : Reg256
  res2 : Reg256
  cnt : Reg32
  len : Word
  status : Word
  fcmd : Word
  buf : List Host.Cell
  hostOps : List HostOp
  replies : List Reply
  deriving DecidableEq, Repr

/-- A 256-bit register nothing has written. The pattern 0 is a DESIGN CHOICE (notes/assumptions/1.md); no read
answers with it. -/
def Reg256.unwritten : Reg256 := ⟨0, Vector.replicate 8 false⟩

/-- A 32-bit register nothing has written. The pattern 0 is a DESIGN CHOICE (notes/assumptions/1.md). -/
def Reg32.unwritten : Reg32 := ⟨0, false⟩

/-- The machine right after reset (10_state.md R38, 70_reset_and_hazards.md R240), built with the default
parameters, no host access presented. -/
def State.reset : State where
  config := Config.standard
  opa := Reg256.unwritten
  opb := Reg256.unwritten
  res := Reg256.unwritten
  res2 := Reg256.unwritten
  cnt := Reg32.unwritten
  len := 0
  status := 0
  fcmd := 0
  buf := []
  hostOps := []
  replies := []

end Sys2Proof.Machine
end

