-- ==== Sys2Proof/Machine/Bits.lean ====
section
/-! DEFINITION. The notation of 00_scope.md R11 and R12: readings, wrapping, fields of a value. -/

namespace Sys2Proof.Machine

/-- The unsigned reading (00_scope.md R12). -/
def uint (v : U256) : Nat := v.toNat

/-- The signed reading (00_scope.md R12): the sign is bit 255. -/
def sint (v : U256) : Int := if v.getLsbD 255 then (v.toNat : Int) - 2 ^ 256 else v.toNat

/-- The pattern of an integer modulo 2^256 (00_scope.md R12). -/
def wrap (x : Int) : U256 := BitVec.ofInt 256 x

/-- The pattern of the least signed value, -2^255. -/
def smin : U256 := BitVec.ofNat 256 (2 ^ 255)

/-- The high word of the word pair (00_scope.md R11). -/
def hiWord (v : U256) : BitVec 128 := v.extractLsb' 128 128

/-- The low word of the word pair (00_scope.md R11). -/
def loWord (v : U256) : BitVec 128 := v.extractLsb' 0 128

/-- The value with the field of `n` bits from bit `lo` up replaced. -/
def putBits {m n : Nat} (v : BitVec m) (lo : Nat) (x : BitVec n) : BitVec m :=
  (v &&& ~~~((BitVec.allOnes n).setWidth m <<< lo)) ||| (x.setWidth m <<< lo)

/-- The 32-bit word `k` of a 256-bit value, word 0 least significant (20_memory.md R53). -/
def wordAt (v : U256) (k : Nat) : Word := v.extractLsb' (32 * k) 32

/-- Byte `k` of a 256-bit value, byte 0 least significant (45_codec.md R195). -/
def byteAt (v : U256) (k : Nat) : Byte := v.extractLsb' (8 * k) 8

/-- Byte `k` of a bus word (20_memory.md R54). -/
def busByte (w : Word) (k : Nat) : Byte := w.extractLsb' (8 * k) 8

/-- The bus word of four BUF bytes, the first in bits 7:0 (20_memory.md R54). -/
def packWord (b0 b1 b2 b3 : Byte) : Word := b3 ++ b2 ++ b1 ++ b0

end Sys2Proof.Machine
end

