-- ==== Sys2Proof/Machine/Flags.lean ====
section
/-! DEFINITION. The fields of STATUS (10_state.md R27), their codes (10_state.md R33, 60_exceptions.md R211), and
every overflow computation of the checked commands. -/

namespace Sys2Proof.Machine

/-! ### Fields of STATUS -/

/-- STATUS.OVF, bit 0. -/
def statusOvf (w : Word) : Bool := w.getLsbD 0

/-- STATUS.NEG, bit 1. -/
def statusNeg (w : Word) : Bool := w.getLsbD 1

/-- STATUS.ERR, bits 6:4. -/
def statusErr (w : Word) : BitVec 3 := w.extractLsb' 4 3

/-- STATUS.FAULT, bit 8. -/
def statusFault (w : Word) : Bool := w.getLsbD 8

/-- STATUS.FCAUSE, bits 15:12. -/
def statusFcause (w : Word) : BitVec 4 := w.extractLsb' 12 4

/-- `STATUS.OVF <- b`. -/
def withOvf (b : Bool) (w : Word) : Word := putBits w 0 (BitVec.ofBool b)

/-- `STATUS.NEG <- b`. -/
def withNeg (b : Bool) (w : Word) : Word := putBits w 1 (BitVec.ofBool b)

/-- `STATUS.ERR <- e`. -/
def withErr (e : BitVec 3) (w : Word) : Word := putBits w 4 e

/-- `STATUS.FAULT <- 1`. -/
def withFault (w : Word) : Word := putBits w 8 (BitVec.ofBool true)

/-- `STATUS.FCAUSE <- k`. -/
def withFcause (k : BitVec 4) (w : Word) : Word := putBits w 12 k

/-- The code of each fault cause; 0 is NONE (60_exceptions.md R211). -/
def FaultCause.code : FaultCause → BitVec 4
  | .illegalCommand => 1
  | .shiftRange => 2
  | .divideByZero => 3
  | .radixRange => 4
  | .lenRange => 5
  | .signedDivOverflow => 6

/-- The code of each error kind; 0 is OK (10_state.md R33). -/
def ErrKind.code : ErrKind → BitVec 3
  | .empty => 1
  | .invalidDigit => 2
  | .posOverflow => 3
  | .negOverflow => 4
  | .lengthExceeded => 5

/-- The code OK of STATUS.ERR (10_state.md R33). -/
def errOk : BitVec 3 := 0

/-! ### Overflow of the checked commands, from the operands and the wrapped result -/

/-- ADDC.U: the carry out of the high word (40_arithmetic.md R103). -/
def ovfAddU (a b _r : U256) : Bool := 2 ^ 256 ≤ uint a + uint b

/-- ADDC.S: equal operand signs and another result sign (40_arithmetic.md R104). -/
def ovfAddS (a b r : U256) : Bool :=
  a.getLsbD 255 == b.getLsbD 255 && r.getLsbD 255 != a.getLsbD 255

/-- SUBB.U: the borrow out of the high word (40_arithmetic.md R106). -/
def ovfSubU (a b _r : U256) : Bool := uint a < uint b

/-- SUBB.S: unequal operand signs and a result sign other than the minuend's (40_arithmetic.md R107). -/
def ovfSubS (a b r : U256) : Bool :=
  a.getLsbD 255 != b.getLsbD 255 && r.getLsbD 255 != a.getLsbD 255

/-- MULW.U: an upper half of the 512-bit product that is not zero (40_arithmetic.md R109). -/
def ovfMulU (a b _r : U256) : Bool := uint a * uint b / 2 ^ 256 ≠ 0

/-- MULW.S: a product outside -2^255 to 2^255 - 1 (40_arithmetic.md R110). -/
def ovfMulS (a b _r : U256) : Bool :=
  !(-2 ^ 255 ≤ sint a * sint b ∧ sint a * sint b ≤ 2 ^ 255 - 1)

end Sys2Proof.Machine
end

