-- ==== Sys2Proof/Machine/Ops.lean ====
section
/-! DEFINITION. The operations on registers and BUF, taking a block fault and reporting a data error. -/

namespace Sys2Proof.Machine

/-- The outcome of a step or of a meaning. -/
abbrev Result := Host.Outcome State Fault Refusal

/-! ### Registers and their written marks (10_state.md R28) -/

/-- The value a command reads: none while any word of the register is unwritten. -/
def Reg256.value (r : Reg256) : Option U256 :=
  if r.written = Vector.replicate 8 true then some r.bits else none

/-- A register after a write of the whole value: every word is written. -/
def Reg256.full (v : U256) : Reg256 := ⟨v, Vector.replicate 8 true⟩

/-- The word the host reads: none while it is unwritten. -/
def Reg256.word (r : Reg256) (k : Fin 8) : Option Word :=
  if r.written[k] then some (wordAt r.bits k) else none

/-- The register after a host write of one of its words (20_memory.md R53). -/
def Reg256.putWord (r : Reg256) (k : Fin 8) (w : Word) : Reg256 :=
  ⟨putBits r.bits (32 * k) w, r.written.set k true⟩

/-- The value read from a 32-bit register: none while it is unwritten. -/
def Reg32.value (r : Reg32) : Option Word := if r.written then some r.bits else none

/-- A 32-bit register after a write. -/
def Reg32.full (v : Word) : Reg32 := ⟨v, true⟩

def State.setOpa (s : State) (v : U256) : State := { s with opa := Reg256.full v }
def State.setOpb (s : State) (v : U256) : State := { s with opb := Reg256.full v }
def State.setRes (s : State) (v : U256) : State := { s with res := Reg256.full v }
def State.setRes2 (s : State) (v : U256) : State := { s with res2 := Reg256.full v }
def State.setCnt (s : State) (v : Word) : State := { s with cnt := Reg32.full v }
def State.setStatus (s : State) (v : Word) : State := { s with status := v }
def State.setFcmd (s : State) (v : Word) : State := { s with fcmd := v }
def State.setBuf (s : State) (m : List Host.Cell) : State := { s with buf := m }
def State.setOpaWord (s : State) (k : Fin 8) (w : Word) : State := { s with opa := s.opa.putWord k w }
def State.setOpbWord (s : State) (k : Fin 8) (w : Word) : State := { s with opb := s.opb.putWord k w }
def State.setHostOps (s : State) (ops : List HostOp) : State := { s with hostOps := ops }
def State.addReply (s : State) (r : Reply) : State := { s with replies := r :: s.replies }

/-- LEN after a write: bits 9:0 are stored and bits 31:10 read as zero (10_state.md R26). -/
def State.setLen (s : State) (v : Word) : State := { s with len := (v.extractLsb' 0 10).setWidth 32 }

/-- `dst <- v` (30_encoding.md R84). -/
def State.setDst (s : State) (dst : Dst) (v : U256) : State :=
  match dst with
  | .opa => s.setOpa v
  | .res => s.setRes v

/-! ### BUF: a list of (index, byte), indices rising, an unlisted byte unwritten -/

/-- The byte at an index: none while it is unwritten (10_state.md R28). -/
def bufRead (m : List Host.Cell) (i : Nat) : Option Byte :=
  match m with
  | [] => none
  | c :: rest => if c.1 = i then some c.2 else bufRead rest i

/-- BUF with one byte written. An unlisted byte has no value, so a write always lists the byte. -/
def bufWrite (m : List Host.Cell) (i : Nat) (b : Byte) : List Host.Cell :=
  match m with
  | [] => [(i, b)]
  | c :: rest =>
    if i < c.1 then (i, b) :: c :: rest
    else if c.1 = i then (i, b) :: rest
    else c :: bufWrite rest i b

/-- `MemRead(i, n)` (00_scope.md R13): none if any byte of it is unwritten. -/
def memRead (m : List Host.Cell) (i n : Nat) : Option (List Byte) :=
  match n with
  | 0 => some []
  | k + 1 =>
    match bufRead m i, memRead m (i + 1) k with
    | some b, some rest => some (b :: rest)
    | _, _ => none

/-- `MemWrite(i, n, bs)` with `n` the length of `bs` (00_scope.md R13). -/
def memWrite (m : List Host.Cell) (i : Nat) (bs : List Byte) : List Host.Cell :=
  match bs with
  | [] => m
  | b :: rest => memWrite (bufWrite m i b) (i + 1) rest

/-- The canonical form of BUF: indices strictly rising and below `BUF_SIZE`. No entry can equal what an
unlisted byte reads as, since that is no value. -/
abbrev bufWf (m : List Host.Cell) : Prop :=
  m.Pairwise (fun c d => c.1 < d.1) ∧ ∀ c ∈ m, c.1 < bufSize

/-! ### Reads by a command: an unwritten input ends the run (60_exceptions.md R219) -/

/-- Go on with a value, or end the run because part of it is unwritten: the model fault UNWRITTEN_READ of
60_exceptions.md R219, the treatment that 10_state.md R28 and 93_implementation_defined.md U13 prescribe. -/
def withValue {α : Type} (v : Option α) (k : α → Result) : Result :=
  match v with
  | some x => k x
  | none => .fault .unwrittenRead

/-- A command that reads OPA. -/
def withOpa (s : State) (k : U256 → Result) : Result := withValue s.opa.value k

/-- A command that reads OPA and OPB. -/
def withOperands (s : State) (k : U256 → U256 → Result) : Result :=
  withValue s.opa.value fun a => withValue s.opb.value fun b => k a b

/-- A command that reads OPA and CNT. -/
def withOpaCnt (s : State) (k : U256 → Nat → Result) : Result :=
  withValue s.opa.value fun a => withValue s.cnt.value fun n => k a n.toNat

/-- A command that reads `n` bytes of BUF from index 0. -/
def withBuf (s : State) (n : Nat) (k : List Byte → Result) : Result := withValue (memRead s.buf 0 n) k

/-! ### Faults and errors -/

/-- Fault entry (60_exceptions.md R212): FAULT, FCAUSE and FCMD, and nothing else. -/
def State.raiseFault (s : State) (cause : FaultCause) (word : Word) : State :=
  (s.setStatus (withFcause cause.code (withFault s.status))).setFcmd word

/-- `raise Fault(cause)` by a command: the command ends with the fault state, its own word in FCMD. -/
def takeFault (cause : FaultCause) (i : Instr) (s : State) : Result :=
  .next (s.raiseFault cause (encode i))

/-- `report Err(kind)` (60_exceptions.md R216): STATUS.ERR, and nothing else. -/
def reportErr (kind : ErrKind) (s : State) : Result :=
  .next (s.setStatus (withErr kind.code s.status))

/-- `STATUS.OVF <- b`. -/
def State.setOvf (s : State) (b : Bool) : State := s.setStatus (withOvf b s.status)

/-- `STATUS.NEG <- b`. -/
def State.setNeg (s : State) (b : Bool) : State := s.setStatus (withNeg b s.status)

/-- `STATUS.ERR <- OK`. -/
def State.setErrOk (s : State) : State := s.setStatus (withErr errOk s.status)

/-- A byte string left in BUF from index 0 with its length in LEN. -/
def State.putString (s : State) (bs : List Byte) : State :=
  (s.setBuf (memWrite s.buf 0 bs)).setLen (BitVec.ofNat 32 bs.length)

end Sys2Proof.Machine
end

