-- ==== Sys2Proof/Machine/Operands.lean ====
section
/-! DEFINITION. The operand forms of the command families: which registers a command reads, where its result
goes, and which range check stands between (10_state.md R41, 60_exceptions.md R215). -/

namespace Sys2Proof.Machine

/-- A wrapping command on OPA and OPB (40_arithmetic.md R100). -/
def binaryOp (f : U256 → U256 → U256) (dst : Dst) (s : State) : Result :=
  withOperands s fun a b => .next (s.setDst dst (f a b))

/-- A checked command on OPA and OPB: the wrapped result, and OVF from operands and result (40_arithmetic.md R100). -/
def checkedOp (f : U256 → U256 → U256) (ovf : U256 → U256 → U256 → Bool) (dst : Dst) (s : State) : Result :=
  withOperands s fun a b => .next ((s.setDst dst (f a b)).setOvf (ovf a b (f a b)))

/-- A command on OPA alone with a 256-bit result (41_bitops.md R130). -/
def unaryOp (f : U256 → U256) (dst : Dst) (s : State) : Result :=
  withOpa s fun a => .next (s.setDst dst (f a))

/-- A shift of OPA by CNT: a count of 256 or more is SHIFT_RANGE (41_bitops.md R131). -/
def shiftOp (f : U256 → Nat → U256) (i : Instr) (dst : Dst) (s : State) : Result :=
  withOpaCnt s fun a n => if 256 ≤ n then takeFault .shiftRange i s else .next (s.setDst dst (f a n))

/-- A rotate of OPA by CNT: a count of 256 or more is SHIFT_RANGE or is reduced modulo 256, as `ROT_COUNT`
says (41_bitops.md R131). -/
def rotateOp (f : U256 → Nat → U256) (i : Instr) (dst : Dst) (s : State) : Result :=
  withOpaCnt s fun a n =>
    if 256 ≤ n ∧ s.config.rotCount = .fault then takeFault .shiftRange i s
    else .next (s.setDst dst (f a (n % 256)))

/-- A command that leaves a byte string in BUF and LEN (45_codec.md R195). -/
def encodeOp (f : U256 → List Byte) (s : State) : Result :=
  withOpa s fun a => .next (s.putString (f a))

/-- A command that reads 32 bytes of BUF, whatever LEN holds (45_codec.md R198, R199). -/
def decodeOp (f : List Byte → Nat) (dst : Dst) (s : State) : Result :=
  withBuf s 32 fun bs => .next (s.setDst dst (wrap (f bs)))

end Sys2Proof.Machine
end

