-- ==== Sys2Proof/Machine/Arithmetic.lean ====
section
/-! DEFINITION. Addition, subtraction and multiplication (40_arithmetic.md), in the whole-value form R101 allows.
The word-pair form of R101 and R111 is in Methods.lean. -/

namespace Sys2Proof.Machine

/-- The sum modulo 2^256 (40_arithmetic.md R101, R102). -/
def addWrap (a b : U256) : U256 := wrap (uint a + uint b)

/-- The difference modulo 2^256 (40_arithmetic.md R101, R105). -/
def subWrap (a b : U256) : U256 := wrap ((uint a : Int) - uint b)

/-- The product of the unsigned readings modulo 2^256 (40_arithmetic.md R108, R109). -/
def mulWrapU (a b : U256) : U256 := wrap (uint a * uint b)

/-- The product of the signed readings modulo 2^256 (40_arithmetic.md R110). -/
def mulWrapS (a b : U256) : U256 := wrap (sint a * sint b)

/-- ADD (40_arithmetic.md R102). -/
def execAdd (dst : Dst) (s : State) : Result := binaryOp addWrap dst s

/-- ADDC.U (40_arithmetic.md R103). -/
def execAddcU (dst : Dst) (s : State) : Result := checkedOp addWrap ovfAddU dst s

/-- ADDC.S (40_arithmetic.md R104). -/
def execAddcS (dst : Dst) (s : State) : Result := checkedOp addWrap ovfAddS dst s

/-- SUB (40_arithmetic.md R105). -/
def execSub (dst : Dst) (s : State) : Result := binaryOp subWrap dst s

/-- SUBB.U (40_arithmetic.md R106). -/
def execSubbU (dst : Dst) (s : State) : Result := checkedOp subWrap ovfSubU dst s

/-- SUBB.S (40_arithmetic.md R107). -/
def execSubbS (dst : Dst) (s : State) : Result := checkedOp subWrap ovfSubS dst s

/-- MUL (40_arithmetic.md R108). -/
def execMul (dst : Dst) (s : State) : Result := binaryOp mulWrapU dst s

/-- MULW.U (40_arithmetic.md R109). The upper half of the product is written nowhere. -/
def execMulwU (dst : Dst) (s : State) : Result := checkedOp mulWrapU ovfMulU dst s

/-- MULW.S (40_arithmetic.md R110). -/
def execMulwS (dst : Dst) (s : State) : Result := checkedOp mulWrapS ovfMulS dst s

end Sys2Proof.Machine
end

