-- ==== Sys2Proof/Machine/BitOps.lean ====
section
/-! DEFINITION. Shifts, rotates and zero counts (41_bitops.md). -/

namespace Sys2Proof.Machine

/-- Logical shift left (41_bitops.md R132). -/
def shiftLeft (a : U256) (n : Nat) : U256 := wrap (uint a * 2 ^ n : Nat)

/-- Logical shift right (41_bitops.md R133). -/
def shiftRightU (a : U256) (n : Nat) : U256 := wrap (uint a / 2 ^ n : Nat)

/-- Arithmetic shift right: division rounding toward minus infinity (41_bitops.md R134). -/
def shiftRightS (a : U256) (n : Nat) : U256 := wrap (Int.fdiv (sint a) (2 ^ n : Nat))

/-- Rotate left by a count below 256 (41_bitops.md R135): two shifts and an or, and the identity for 0. -/
def rotateLeft (a : U256) (n : Nat) : U256 :=
  if n = 0 then a else shiftLeft a n ||| shiftRightU a (256 - n)

/-- Rotate right by a count below 256 (41_bitops.md R136). -/
def rotateRight (a : U256) (n : Nat) : U256 :=
  if n = 0 then a else shiftRightU a n ||| shiftLeft a (256 - n)

/-- The index of the highest set bit, for a value that is not 0. -/
def highestBit (a : U256) : Nat := Nat.log2 (uint a)

/-- The index of the lowest set bit, or 256 for 0. -/
def lowestBit (a : U256) : Nat := ((List.range 256).find? fun i => a.getLsbD i).getD 256

/-- The number of leading zero bits; 256 for 0 (41_bitops.md R137). -/
def leadingZeros (a : U256) : Nat := if a = 0 then 256 else 255 - highestBit a

/-- The number of trailing zero bits; 256 for 0 (41_bitops.md R138). -/
def trailingZeros (a : U256) : Nat := if a = 0 then 256 else lowestBit a

/-- SHL (41_bitops.md R132). -/
def execShl (dst : Dst) (s : State) : Result := shiftOp shiftLeft (.shl dst) dst s

/-- SHR.U (41_bitops.md R133). -/
def execShrU (dst : Dst) (s : State) : Result := shiftOp shiftRightU (.shrU dst) dst s

/-- SHR.S (41_bitops.md R134). -/
def execShrS (dst : Dst) (s : State) : Result := shiftOp shiftRightS (.shrS dst) dst s

/-- ROL (41_bitops.md R135). -/
def execRol (dst : Dst) (s : State) : Result := rotateOp rotateLeft (.rol dst) dst s

/-- ROR (41_bitops.md R136). -/
def execRor (dst : Dst) (s : State) : Result := rotateOp rotateRight (.ror dst) dst s

/-- CLZ (41_bitops.md R137). -/
def execClz (dst : Dst) (s : State) : Result := unaryOp (fun a => BitVec.ofNat 256 (leadingZeros a)) dst s

/-- CTZ (41_bitops.md R138). -/
def execCtz (dst : Dst) (s : State) : Result := unaryOp (fun a => BitVec.ofNat 256 (trailingZeros a)) dst s

end Sys2Proof.Machine
end

