-- ==== Sys2Proof/Machine/Codec.lean ====
section
/-! DEFINITION. The byte codec (45_codec.md): values to and from byte strings in BUF. -/

namespace Sys2Proof.Machine

/-- The low `n` bytes of a value, most significant first (45_codec.md R196, R200). -/
def bytesBE (n : Nat) (v : U256) : List Byte := (List.range n).map fun i => byteAt v (n - 1 - i)

/-- The low `n` bytes of a value, least significant first (45_codec.md R197). -/
def bytesLE (n : Nat) (v : U256) : List Byte := (List.range n).map fun i => byteAt v i

/-- The sum of `bs[i] · 256^(L-1-i)` (45_codec.md R198, R201). -/
def valueBE : List Byte → Nat
  | [] => 0
  | b :: rest => b.toNat * 256 ^ rest.length + valueBE rest

/-- The sum of `bs[i] · 256^i` (45_codec.md R199). -/
def valueLE : List Byte → Nat
  | [] => 0
  | b :: rest => b.toNat + 256 * valueLE rest

/-- The number of bits of a value without its leading zeros; 0 for 0. -/
def bitLength (x : Nat) : Nat := if x = 0 then 0 else Nat.log2 x + 1

/-- The number of bytes of the compact encoding (45_codec.md R200). -/
def compactLength (cfg : Config) (v : U256) : Nat :=
  if uint v = 0 ∧ cfg.compactZero = .oneZeroByte then 1 else (bitLength (uint v) + 7) / 8

/-- TOBE (45_codec.md R196). -/
def execTobe (s : State) : Result := encodeOp (bytesBE 32) s

/-- TOLE (45_codec.md R197). -/
def execTole (s : State) : Result := encodeOp (bytesLE 32) s

/-- FROMBE (45_codec.md R198). -/
def execFrombe (dst : Dst) (s : State) : Result := decodeOp valueBE dst s

/-- FROMLE (45_codec.md R199). -/
def execFromle (dst : Dst) (s : State) : Result := decodeOp valueLE dst s

/-- TOCOMPACT (45_codec.md R200). -/
def execTocompact (s : State) : Result := encodeOp (fun a => bytesBE (compactLength s.config a) a) s

/-- FROMCOMPACT (45_codec.md R201, R203). -/
def execFromcompact (dst : Dst) (s : State) : Result :=
  if bufSize < s.len.toNat then takeFault .lenRange (.fromcompact dst) s
  else if 32 < s.len.toNat then reportErr .lengthExceeded s
  else withBuf s s.len.toNat fun bs => .next ((s.setDst dst (wrap (valueBE bs))).setErrOk)

end Sys2Proof.Machine
end

