-- ==== Sys2Proof/Machine/Division.lean ====
section
/-! DEFINITION. Division with remainder (42_division.md). -/

namespace Sys2Proof.Machine

/-- The unsigned quotient (42_division.md R151). -/
def quotU (a b : U256) : U256 := wrap (uint a / uint b : Nat)

/-- The unsigned remainder (42_division.md R151). -/
def remU (a b : U256) : U256 := wrap ((uint a : Int) - (uint a / uint b * uint b : Nat))

/-- The quotient of the magnitudes (42_division.md R152). -/
def quotMagnitude (a b : U256) : Nat := (sint a).natAbs / (sint b).natAbs

/-- The remainder of the magnitudes (42_division.md R152). -/
def remMagnitude (a b : U256) : Nat := (sint a).natAbs - quotMagnitude a b * (sint b).natAbs

/-- The signed quotient: negative when the operand signs differ (42_division.md R152). -/
def quotS (a b : U256) : U256 :=
  wrap (if decide (sint a < 0) != decide (sint b < 0) then -(quotMagnitude a b : Int) else quotMagnitude a b)

/-- The signed remainder: it takes the dividend's sign (42_division.md R152). -/
def remS (a b : U256) : U256 :=
  wrap (if sint a < 0 then -(remMagnitude a b : Int) else remMagnitude a b)

/-- The quotient to `dst` and the remainder to RES2 (42_division.md R150). -/
def State.setQuotRem (s : State) (dst : Dst) (q r : U256) : State := (s.setDst dst q).setRes2 r

/-- DIVREM.U (42_division.md R151, R153). -/
def execDivremU (dst : Dst) (s : State) : Result :=
  withOperands s fun a b =>
    if b = 0 then takeFault .divideByZero (.divremU dst) s
    else .next (s.setQuotRem dst (quotU a b) (remU a b))

/-- DIVREM.S (42_division.md R152, R153, R154). -/
def execDivremS (dst : Dst) (s : State) : Result :=
  withOperands s fun a b =>
    if b = 0 then takeFault .divideByZero (.divremS dst) s
    else if sint a = -2 ^ 255 ∧ sint b = -1 ∧ s.config.sdivMinNeg1 = .fault then
      takeFault .signedDivOverflow (.divremS dst) s
    else .next (s.setQuotRem dst (quotS a b) (remS a b))

end Sys2Proof.Machine
end

