-- ==== Sys2Proof/Machine/Formatter.lean ====
section
/-! DEFINITION. The formatter (43_formatter.md): ASCII digits of OPA into BUF. -/

namespace Sys2Proof.Machine

/-- The byte of a digit value (43_formatter.md R169, 00_scope.md R14). -/
def digitByte (letters : DigitCase) (d : Nat) : Byte :=
  if d < 10 then BitVec.ofNat 8 (0x30 + d)
  else match letters with
    | .lower => BitVec.ofNat 8 (0x61 + (d - 10))
    | .upper => BitVec.ofNat 8 (0x41 + (d - 10))

/-- The digit values of `x`, most significant first, at most `fuel` of them (43_formatter.md R167). -/
def digitValues (radix : Nat) : (fuel x : Nat) → List Nat
  | 0, _ => []
  | fuel + 1, x => (if x / radix = 0 then [] else digitValues radix fuel (x / radix)) ++ [x % radix]

/-- The digit string of a value below 2^256. It has at most 256 digits, in radix 2 (43_formatter.md R172). -/
def digitString (letters : DigitCase) (radix x : Nat) : List Byte :=
  (digitValues radix 256 x).map (digitByte letters)

/-- The digit string in BUF, its length in LEN, and NEG (43_formatter.md R170). -/
def State.putDigits (s : State) (neg : Bool) (bs : List Byte) : State := (s.putString bs).setNeg neg

/-- FMT.U (43_formatter.md R167). A radix or case that is not legal makes the word an illegal command
(43_formatter.md R165, 30_encoding.md R88); on such a term, which no step reaches, that is DEDUCED
(notes/assumptions/6.md, safe). -/
def execFmtU (letters : DigitCase) (radix : BitVec 6) (s : State) : Result :=
  if fmtLegal letters radix then
    withOpa s fun a => .next (s.putDigits false (digitString letters radix.toNat (uint a)))
  else takeFault .illegalCommand (.fmtU letters radix) s

/-- Whether FMT.S formats sign and magnitude: always in radix 10, else as `SIGNED_RADIX_FMT` says
(43_formatter.md R168). -/
def formatsMagnitude (cfg : Config) (radix : BitVec 6) : Bool :=
  radix.toNat = 10 ∨ cfg.signedRadixFmt = .signMagnitude

/-- FMT.S (43_formatter.md R168); for a radix or case that is not legal, as FMT.U. -/
def execFmtS (letters : DigitCase) (radix : BitVec 6) (s : State) : Result :=
  if fmtLegal letters radix then
    withOpa s fun a =>
      if formatsMagnitude s.config radix then
        .next (s.putDigits (sint a < 0) (digitString letters radix.toNat (sint a).natAbs))
      else .next (s.putDigits false (digitString letters radix.toNat (uint a)))
  else takeFault .illegalCommand (.fmtS letters radix) s

end Sys2Proof.Machine
end

