-- ==== Sys2Proof/Machine/Parser.lean ====
section
/-! DEFINITION. The parser (44_parser.md): text in BUF to a 256-bit value. -/

namespace Sys2Proof.Machine

/-- The digit value of a byte, letters of either case (44_parser.md R185). -/
def digitOf (ch : Byte) : Option Nat :=
  if 0x30 ≤ ch.toNat ∧ ch.toNat ≤ 0x39 then some (ch.toNat - 0x30)
  else if 0x61 ≤ ch.toNat ∧ ch.toNat ≤ 0x7a then some (ch.toNat - 0x61 + 10)
  else if 0x41 ≤ ch.toNat ∧ ch.toNat ≤ 0x5a then some (ch.toNat - 0x41 + 10)
  else none

/-- The sign of the text and the text after it: `+` is a sign for both commands, `-` for PARSE.S only
(44_parser.md R181). -/
def splitSign (signed : Bool) (t : List Byte) : Bool × List Byte :=
  match t with
  | [] => (false, [])
  | ch :: rest =>
    if ch = 0x2b then (false, rest)
    else if ch = 0x2d ∧ signed then (true, rest)
    else (false, ch :: rest)

/-- One digit accumulated, checked against the range (44_parser.md R181, R184). -/
def accumulate (radix : Nat) (lo hi : Int) (neg : Bool) (acc : Int) (ch : Byte) : Except ErrKind Int :=
  match digitOf ch with
  | none => .error .invalidDigit
  | some d =>
    if radix ≤ d then .error .invalidDigit
    else if neg then
      if acc * radix - d < lo then .error .negOverflow else .ok (acc * radix - d)
    else
      if hi < acc * radix + d then .error .posOverflow else .ok (acc * radix + d)

/-- The digits from left to right; the first failure ends the parse (44_parser.md R188). -/
def parseDigits (radix : Nat) (lo hi : Int) (neg : Bool) (acc : Int) : List Byte → Except ErrKind Int
  | [] => .ok acc
  | ch :: rest =>
    match accumulate radix lo hi neg acc ch with
    | .error e => .error e
    | .ok acc' => parseDigits radix lo hi neg acc' rest

/-- The least value of the type (44_parser.md R181). -/
def parseLo (signed : Bool) : Int := if signed then -2 ^ 255 else 0

/-- The greatest value of the type (44_parser.md R181). -/
def parseHi (signed : Bool) : Int := if signed then 2 ^ 255 - 1 else 2 ^ 256 - 1

/-- The parse of a text (44_parser.md R181, R182). -/
def parseText (signed : Bool) (radix : Nat) (t : List Byte) : Except ErrKind Int :=
  match splitSign signed t with
  | (_, []) => .error .empty
  | (neg, ch :: rest) => parseDigits radix (parseLo signed) (parseHi signed) neg 0 (ch :: rest)

/-- The checks, the parse and its result, shared by both commands (44_parser.md R180, R181, R186). -/
def parseOp (signed : Bool) (i : Instr) (dst : Dst) (radix : BitVec 6) (s : State) : Result :=
  if bufSize < s.len.toNat then takeFault .lenRange i s
  else if ¬(2 ≤ radix.toNat ∧ radix.toNat ≤ 36) then takeFault .radixRange i s
  else
    withBuf s s.len.toNat fun t =>
      match parseText signed radix.toNat t with
      | .error kind => reportErr kind s
      | .ok acc => .next ((s.setDst dst (wrap acc)).setErrOk)

/-- PARSE.U (44_parser.md R181). -/
def execParseU (dst : Dst) (radix : BitVec 6) (s : State) : Result :=
  parseOp false (.parseU dst radix) dst radix s

/-- PARSE.S (44_parser.md R181). -/
def execParseS (dst : Dst) (radix : BitVec 6) (s : State) : Result :=
  parseOp true (.parseS dst radix) dst radix s

end Sys2Proof.Machine
end

