-- ==== Sys2Proof/Machine/Dispatch.lean ====
section
/-! DEFINITION. One arm per command: each calls its meaning. -/

namespace Sys2Proof.Machine

def exec (i : Instr) (s : State) : Host.Outcome State Fault Refusal :=
  match i with
  | .add dst => Sys2Proof.Machine.execAdd dst s
  | .addcU dst => Sys2Proof.Machine.execAddcU dst s
  | .addcS dst => Sys2Proof.Machine.execAddcS dst s
  | .sub dst => Sys2Proof.Machine.execSub dst s
  | .subbU dst => Sys2Proof.Machine.execSubbU dst s
  | .subbS dst => Sys2Proof.Machine.execSubbS dst s
  | .mul dst => Sys2Proof.Machine.execMul dst s
  | .mulwU dst => Sys2Proof.Machine.execMulwU dst s
  | .mulwS dst => Sys2Proof.Machine.execMulwS dst s
  | .shl dst => Sys2Proof.Machine.execShl dst s
  | .shrU dst => Sys2Proof.Machine.execShrU dst s
  | .shrS dst => Sys2Proof.Machine.execShrS dst s
  | .rol dst => Sys2Proof.Machine.execRol dst s
  | .ror dst => Sys2Proof.Machine.execRor dst s
  | .clz dst => Sys2Proof.Machine.execClz dst s
  | .ctz dst => Sys2Proof.Machine.execCtz dst s
  | .divremU dst => Sys2Proof.Machine.execDivremU dst s
  | .divremS dst => Sys2Proof.Machine.execDivremS dst s
  | .fmtU letters radix => Sys2Proof.Machine.execFmtU letters radix s
  | .fmtS letters radix => Sys2Proof.Machine.execFmtS letters radix s
  | .parseU dst radix => Sys2Proof.Machine.execParseU dst radix s
  | .parseS dst radix => Sys2Proof.Machine.execParseS dst radix s
  | .tobe => Sys2Proof.Machine.execTobe s
  | .tole => Sys2Proof.Machine.execTole s
  | .frombe dst => Sys2Proof.Machine.execFrombe dst s
  | .fromle dst => Sys2Proof.Machine.execFromle dst s
  | .tocompact => Sys2Proof.Machine.execTocompact s
  | .fromcompact dst => Sys2Proof.Machine.execFromcompact dst s

end Sys2Proof.Machine
end

