-- ==== Sys2Proof/Machine/HostAccess.lean ====
section
/-! DEFINITION. What the block does with one host access: the bus view, the register view, issuing a command and
the reset input (20_memory.md, 60_exceptions.md R214 and R215, 70_reset_and_hazards.md R240). -/

namespace Sys2Proof.Machine

/-- Issue a command word (10_state.md R29, 60_exceptions.md R215 checks 1 and 2): ignored while FAULT = 1,
ILLEGAL_COMMAND where the decode check fails, else the command runs. -/
def issue (c : Word) (s : State) : Result :=
  if statusFault s.status then .next s
  else match decode c with
    | .error _ => .next (s.raiseFault .illegalCommand c)
    | .ok i => exec i s

/-- The reset input (70_reset_and_hazards.md R240). The build parameters do not change (R244); the host's
accesses and the replies it holds are not the block's. That it falls between accesses is DEDUCED from R241
(notes/assumptions/7.md, safe). -/
def State.resetInput (s : State) : State :=
  { State.reset with config := s.config, hostOps := s.hostOps, replies := s.replies }

/-! ### The window (20_memory.md R51) -/

/-- What a window offset names. Only offsets that are multiples of 4 are looked up. -/
inductive Target where
  | opa (k : Fin 8)
  | opb (k : Fin 8)
  | res (k : Fin 8)
  | res2 (k : Fin 8)
  | cnt
  | len
  | status
  | cmd
  | fcmd
  | reserved
  | buf (i : Nat)
  deriving DecidableEq, Repr

/-- The word of a 256-bit register an offset names (20_memory.md R53). -/
def wordIndex (off : Nat) : Fin 8 := ⟨off / 4 % 8, Nat.mod_lt _ (by decide)⟩

/-- The address map (20_memory.md R51), for offsets 0x000 to 0x3FF; a BUF target is its first byte. -/
def targetOf (off : Nat) : Target :=
  if off < 0x020 then .opa (wordIndex off)
  else if off < 0x040 then .opb (wordIndex off)
  else if off < 0x060 then .res (wordIndex off)
  else if off < 0x080 then .res2 (wordIndex off)
  else if off = 0x080 then .cnt
  else if off = 0x084 then .len
  else if off = 0x088 then .status
  else if off = 0x08c then .cmd
  else if off = 0x090 then .fcmd
  else if off < 0x200 then .reserved
  else .buf (off - 0x200)

/-- The offset an access reaches: none for an access that is not a 32-bit aligned access of the window
(20_memory.md R55, 60_exceptions.md R219). The window is the page `ETH256_BASE` names. That an access of another
page is BUS_ERROR is DEDUCED from R219 (notes/assumptions/4.md, safe). -/
def windowOffset (cfg : Config) (width addr : Nat) : Option Nat :=
  if width = 32 ∧ addr % 4 = 0 ∧ addr / 1024 = cfg.basePage then some (addr % 1024) else none

/-- The platform address of a window offset (20_memory.md R51). -/
def busAddr (cfg : Config) (off : Nat) : Nat := 1024 * cfg.basePage + off

/-- The four bytes of BUF from an index as a bus word (20_memory.md R54): none if any is unwritten. -/
def bufWord (m : List Host.Cell) (i : Nat) : Option Word :=
  match bufRead m i, bufRead m (i + 1), bufRead m (i + 2), bufRead m (i + 3) with
  | some b0, some b1, some b2, some b3 => some (packWord b0 b1 b2 b3)
  | _, _, _, _ => none

/-- BUF after a write of the four bytes of a bus word (20_memory.md R54). -/
def bufPutWord (m : List Host.Cell) (i : Nat) (w : Word) : List Host.Cell :=
  memWrite m i [busByte w 0, busByte w 1, busByte w 2, busByte w 3]

/-- The word a target reads as (20_memory.md R53, R54, R56): none if part of it is unwritten. -/
def readTarget (s : State) : Target → Option Word
  | .opa k => s.opa.word k
  | .opb k => s.opb.word k
  | .res k => s.res.word k
  | .res2 k => s.res2.word k
  | .cnt => s.cnt.value
  | .len => some s.len
  | .status => some s.status
  | .cmd => some 0
  | .fcmd => some s.fcmd
  | .reserved => some 0
  | .buf i => bufWord s.buf i

/-- The effect of a write to a target (20_memory.md R56, R57): a write to CMD issues a command, a write to a
read-only or reserved target is ignored. -/
def writeTarget (s : State) (w : Word) : Target → Result
  | .opa k => .next (s.setOpaWord k w)
  | .opb k => .next (s.setOpbWord k w)
  | .cnt => .next (s.setCnt w)
  | .len => .next (s.setLen w)
  | .cmd => issue w s
  | .buf i => .next (s.setBuf (bufPutWord s.buf i w))
  | .res _ | .res2 _ | .status | .fcmd | .reserved => .next s

/-! ### The two views (20_memory.md R69) -/

/-- The value `ReadReg(r)` answers with: none if part of it is unwritten. -/
def readRegister (s : State) : RegName → Option Reply
  | .opa => s.opa.value.map Reply.wide
  | .opb => s.opb.value.map Reply.wide
  | .res => s.res.value.map Reply.wide
  | .res2 => s.res2.value.map Reply.wide
  | .cnt => s.cnt.value.map Reply.word
  | .len => some (.word s.len)
  | .status => some (.word s.status)
  | .cmd => some (.word 0)
  | .fcmd => some (.word s.fcmd)

/-- Answer a host read, or end the run because part of it is unwritten (10_state.md R28). -/
def answer (s : State) (v : Option Reply) : Result :=
  withValue v fun r => .next (s.addReply r)

/-- One access, on the state in which it is no longer waiting. -/
def perform (op : HostOp) (s : State) : Result :=
  match op with
  | .busRead width addr =>
    match windowOffset s.config width addr with
    | none => .fault .busError
    | some off => answer s ((readTarget s (targetOf off)).map Reply.word)
  | .busWrite width addr data =>
    match windowOffset s.config width addr with
    | none => .fault .busError
    | some off => writeTarget s data (targetOf off)
  | .readReg r => answer s (readRegister s r)
  | .writeOperand .opa v => .next (s.setOpa v)
  | .writeOperand .opb v => .next (s.setOpb v)
  | .writeControl .cnt v => .next (s.setCnt v)
  | .writeControl .len v => .next (s.setLen v)
  | .writeControl .cmd c => issue c s
  | .readBuf i => answer s ((bufRead s.buf i).map Reply.byte)
  | .writeBuf i b => .next (s.setBuf (bufWrite s.buf i b))
  | .reset => .next s.resetInput

/-- The access the host has presented first, performed. With none presented the block is idle and holds its
state (60_exceptions.md R237). -/
def performNext (s : State) : Result :=
  match s.hostOps with
  | [] => .next s
  | op :: rest => perform op (s.setHostOps rest)

/-- The host's next access is a write of a command word to CMD at its bus address, before the accesses already
presented (20_memory.md R51, R66). -/
def State.presentCommand (s : State) (c : Word) : State :=
  s.setHostOps (.busWrite 32 (busAddr s.config 0x08c) c :: s.hostOps)

end Sys2Proof.Machine
end

