-- ==== Sys2Proof/Machine/Step.lean ====
section
/-! DEFINITION. One step of the block, and how a command comes to be its next. -/

namespace Sys2Proof.Machine

/-- One step: one host access, or one assertion of reset (20_memory.md R61, R63; no time is modelled,
notes/assumptions/10.md). -/
def step (s : State) : Host.Outcome State Fault Refusal := performNext s

/-- The state in which the next step runs the command whose low `nbits` bits are `w`: the block fetches
nothing, it runs the word of a CMD write (20_memory.md R66, notes/assumptions/2.md). -/
def State.withFetchWord (s : State) (nbits w : Nat) : State :=
  s.presentCommand (BitVec.ofNat 32 (w % 2 ^ nbits))

end Sys2Proof.Machine
end

