-- ==== Sys2Proof/Machine/HostProgram.lean ====
section
/-! DEFINITION. The host statements of 30_encoding.md R92 as the bus accesses they stand for. The block sees only
the accesses; host control flow is the host's own (10_state.md R39). -/

namespace Sys2Proof.Machine

/-- A host statement (30_encoding.md R92). -/
inductive HostStmt where
  /-- `wr OPA, v` or `wr OPB, v`. -/
  | wrOperand (r : OperandReg) (v : U256)
  /-- `wr CNT, n`, `wr LEN, n`, or `op` with a command word. -/
  | wrControl (r : ControlReg) (v : Word)
  /-- `wrbuf [bytes]`: the bytes from BUF[0], then their number to LEN. -/
  | wrbuf (bs : List Byte)
  /-- `rd <reg>`. -/
  | rd (r : RegName)
  /-- `rdbuf n`. -/
  | rdbuf (n : Nat)
  deriving DecidableEq, Repr

/-- The window offset of a register (20_memory.md R51). -/
def regOffset : RegName → Nat
  | .opa => 0x000
  | .opb => 0x020
  | .res => 0x040
  | .res2 => 0x060
  | .cnt => 0x080
  | .len => 0x084
  | .status => 0x088
  | .cmd => 0x08c
  | .fcmd => 0x090

/-- The number of bus words of a register: eight for the 256-bit ones (20_memory.md R53). -/
def regWords : RegName → Nat
  | .opa | .opb | .res | .res2 => 8
  | .cnt | .len | .status | .cmd | .fcmd => 1

/-- The register a 256-bit host write names. -/
def OperandReg.name : OperandReg → RegName
  | .opa => .opa
  | .opb => .opb

/-- The register a 32-bit host write names. -/
def ControlReg.name : ControlReg → RegName
  | .cnt => .cnt
  | .len => .len
  | .cmd => .cmd

/-- The write of word `k` of a 256-bit register (20_memory.md R53). -/
def writeWordOp (cfg : Config) (r : OperandReg) (v : U256) (k : Nat) : HostOp :=
  .busWrite 32 (busAddr cfg (regOffset r.name + 4 * k)) (wordAt v k)

/-- The bus words of a byte string, the last one filled with 0 (30_encoding.md R92; the 0 is DEDUCED from
PROG3, notes/assumptions/5.md). -/
def packBytes : List Byte → List Word
  | [] => []
  | [b0] => [packWord b0 0 0 0]
  | [b0, b1] => [packWord b0 b1 0 0]
  | [b0, b1, b2] => [packWord b0 b1 b2 0]
  | b0 :: b1 :: b2 :: b3 :: rest => packWord b0 b1 b2 b3 :: packBytes rest

/-- Writes of consecutive bus words from an offset up. -/
def writeWordsFrom (cfg : Config) (off : Nat) : List Word → List HostOp
  | [] => []
  | w :: rest => .busWrite 32 (busAddr cfg off) w :: writeWordsFrom cfg (off + 4) rest

/-- Reads of `n` consecutive bus words from an offset up. -/
def readWordsFrom (cfg : Config) (off n : Nat) : List HostOp :=
  (List.range n).map fun k => .busRead 32 (busAddr cfg (off + 4 * k))

/-- The bus accesses of a statement, in order (30_encoding.md R92). -/
def HostStmt.accesses (cfg : Config) : HostStmt → List HostOp
  | .wrOperand r v => (List.range 8).map (writeWordOp cfg r v)
  | .wrControl r v => [.busWrite 32 (busAddr cfg (regOffset r.name)) v]
  | .wrbuf bs =>
    writeWordsFrom cfg 0x200 (packBytes bs) ++
      [.busWrite 32 (busAddr cfg 0x084) (BitVec.ofNat 32 bs.length)]
  | .rd r => readWordsFrom cfg (regOffset r) (regWords r)
  | .rdbuf n => readWordsFrom cfg 0x200 ((n + 3) / 4)

end Sys2Proof.Machine
end

