-- ==== Sys2Proof/Machine/Methods.lean ====
section
/-! DEFINITION. The word-pair and step-by-step methods of the spec: R101, R111, R139, R155, R171. No meaning calls
one: 00_scope.md R15 lets a model implement the rule and ignore the method. They are here so that statements
can say that each method gives the rule's result. -/

namespace Sys2Proof.Machine

/-- A value from its word pair (00_scope.md R11). -/
def ofPair (hi lo : BitVec 128) : U256 := hi ++ lo

/-- Carry-propagating addition on the word pair (40_arithmetic.md R101): the sum and the carry out. -/
def addChain (a b : U256) : U256 × Bool :=
  let s0 := (loWord a).toNat + (loWord b).toNat
  let c0 := decide (2 ^ 128 ≤ s0)
  let s1 := (hiWord a).toNat + (hiWord b).toNat + c0.toNat
  (ofPair (BitVec.ofNat 128 s1) (BitVec.ofNat 128 s0), decide (2 ^ 128 ≤ s1))

/-- Borrow-propagating subtraction on the word pair (40_arithmetic.md R101): the difference and the borrow out. -/
def subChain (a b : U256) : U256 × Bool :=
  let d0 : Int := (loWord a).toNat - (loWord b).toNat
  let b0 := decide (d0 < 0)
  let d1 : Int := (hiWord a).toNat - (hiWord b).toNat - b0.toNat
  (ofPair (BitVec.ofInt 128 d1) (BitVec.ofInt 128 d0), decide (d1 < 0))

/-- A 128 by 128 product as four 64 by 64 partial products (40_arithmetic.md R111). -/
def partialProducts (x y : BitVec 128) : Nat :=
  let xl := x.toNat % 2 ^ 64
  let xh := x.toNat / 2 ^ 64
  let yl := y.toNat % 2 ^ 64
  let yh := y.toNat / 2 ^ 64
  xl * yl + (xl * yh + xh * yl) * 2 ^ 64 + xh * yh * 2 ^ 128

/-- The truncated product on the word pair (40_arithmetic.md R111). -/
def mulPair (a b : U256) : U256 :=
  wrap (partialProducts (loWord a) (loWord b) +
    (partialProducts (hiWord a) (loWord b) + partialProducts (loWord a) (hiWord b)) % 2 ^ 128 * 2 ^ 128 : Nat)

/-- The leading zeros of a 128-bit word, 128 for 0 (41_bitops.md R139). -/
def clz128 (w : BitVec 128) : Nat := if w = 0 then 128 else 127 - Nat.log2 w.toNat

/-- The trailing zeros of a 128-bit word, 128 for 0 (41_bitops.md R139). -/
def ctz128 (w : BitVec 128) : Nat := ((List.range 128).find? fun i => w.getLsbD i).getD 128

/-- The leading zeros of a word pair, the high word first (41_bitops.md R139). -/
def clzPair (a : U256) : Nat := if hiWord a ≠ 0 then clz128 (hiWord a) else 128 + clz128 (loWord a)

/-- The trailing zeros of a word pair, the low word first (41_bitops.md R139). -/
def ctzPair (a : U256) : Nat := if loWord a ≠ 0 then ctz128 (loWord a) else 128 + ctz128 (hiWord a)

/-- One round of the restoring division: bit `i` of the dividend enters the remainder (42_division.md R155). -/
def divRound (a : U256) (b : Nat) (i : Nat) (qr : Nat × Nat) : Nat × Nat :=
  let r := 2 * qr.2 + (a.getLsbD i).toNat
  if b ≤ r then (2 * qr.1 + 1, r - b) else (2 * qr.1, r)

/-- The rounds for the dividend bits from `n - 1` down to 0, on a quotient and remainder so far. The quotient
bits are appended as they are found, the first of them the highest. -/
def divRounds (a : U256) (b : Nat) : Nat → Nat × Nat → Nat × Nat
  | 0, qr => qr
  | n + 1, qr => divRounds a b n (divRound a b n qr)

/-- The bit-by-bit long division (42_division.md R155): quotient and remainder. -/
def divBitwise (a b : U256) : Nat × Nat := divRounds a (uint b) 256 (0, 0)

/-- The four decimal digits of a value below 10000, zeros included (43_formatter.md R171). -/
def fourDigits (x : Nat) : List Nat := [x / 1000 % 10, x / 100 % 10, x / 10 % 10, x % 10]

/-- The decimal digits by groups of four: divide by 10000 while the value does not fit below it, at most `fuel`
times (43_formatter.md R171). -/
def decimalByGroups : (fuel x : Nat) → List Nat
  | 0, x => digitValues 10 4 x
  | fuel + 1, x =>
    if x < 10000 then digitValues 10 4 x
    else decimalByGroups fuel (x / 10000) ++ fourDigits (x % 10000)

end Sys2Proof.Machine
end

