-- ==== Sys2Proof/Safety.lean ====
section
/-! DEFINITION. What the statements call a good state, a run, ready inputs and a true fault record. -/

namespace Sys2Proof.Machine

/-! ### Outcomes and runs -/

/-- The next state, where there is one. -/
def Result.state? : Result → Option State
  | .next s => some s
  | .fault _ => none
  | .refused _ => none

/-- The model fault, where the run ends on one. -/
def Result.fault? : Result → Option Fault
  | .next _ => none
  | .fault f => some f
  | .refused _ => none

/-- Accesses performed one after another; the first model fault ends the run (70_reset_and_hazards.md R250). -/
def performAll : List HostOp → State → Result
  | [], s => .next s
  | op :: rest, s =>
    match perform op s with
    | .next t => performAll rest t
    | .fault f => .fault f
    | .refused r => .refused r

/-- A run: a reset of the block as built, then a list of accesses (70_reset_and_hazards.md R250). -/
def runFromReset (cfg : Config) (ops : List HostOp) : Result :=
  performAll ops { State.reset with config := cfg }

/-! ### Kinds of access -/

/-- The access issues a command: a write to CMD, in either view (10_state.md R29, 20_memory.md R51). -/
def writesCmd (cfg : Config) (op : HostOp) : Prop :=
  ∃ c, op = .writeControl .cmd c ∨ op = .busWrite 32 (busAddr cfg 0x08c) c

/-- The access reads STATUS, in either view (20_memory.md R51). -/
def readsStatus (cfg : Config) (op : HostOp) : Prop :=
  op = .readReg .status ∨ op = .busRead 32 (busAddr cfg 0x088)

/-! ### Ready inputs (70_reset_and_hazards.md R243) -/

/-- Every byte of a prefix of BUF is written. -/
def bufReady (s : State) (n : Nat) : Prop := ∀ i < n, bufRead s.buf i ≠ none

/-- OPA is written, all 8 words. -/
def opaReady (s : State) : Prop := s.opa.value ≠ none

/-- OPB is written, all 8 words. -/
def opbReady (s : State) : Prop := s.opb.value ≠ none

/-- CNT is written. -/
def cntReady (s : State) : Prop := s.cnt.value ≠ none

/-- Every input the command reads is written. BUF is an input of PARSE and FROMCOMPACT only where their checks
let them read it (60_exceptions.md R219), and FMT is a command only with a legal radix and case. -/
def inputsReady (i : Instr) (s : State) : Prop :=
  match i with
  | .add _ | .addcU _ | .addcS _ | .sub _ | .subbU _ | .subbS _ | .mul _ | .mulwU _ | .mulwS _
  | .divremU _ | .divremS _ => opaReady s ∧ opbReady s
  | .shl _ | .shrU _ | .shrS _ | .rol _ | .ror _ => opaReady s ∧ cntReady s
  | .clz _ | .ctz _ | .tobe | .tole | .tocompact => opaReady s
  | .fmtU letters radix | .fmtS letters radix => fmtLegal letters radix = true → opaReady s
  | .parseU _ radix | .parseS _ radix =>
    s.len.toNat ≤ 512 → 2 ≤ radix.toNat → radix.toNat ≤ 36 → bufReady s s.len.toNat
  | .frombe _ | .fromle _ => bufReady s 32
  | .fromcompact _ => s.len.toNat ≤ 32 → bufReady s s.len.toNat

/-! ### The read and write matrix (10_state.md R41) -/

/-- The commands that write STATUS.OVF (10_state.md R31). -/
def writesOvf : Instr → Bool
  | .addcU _ | .addcS _ | .subbU _ | .subbS _ | .mulwU _ | .mulwS _ => true
  | .add _ | .sub _ | .mul _ | .shl _ | .shrU _ | .shrS _ | .rol _ | .ror _ | .clz _ | .ctz _
  | .divremU _ | .divremS _ | .fmtU _ _ | .fmtS _ _ | .parseU _ _ | .parseS _ _ | .tobe | .tole
  | .frombe _ | .fromle _ | .tocompact | .fromcompact _ => false

/-- The commands that write STATUS.NEG (10_state.md R32). -/
def writesNeg : Instr → Bool
  | .fmtU _ _ | .fmtS _ _ => true
  | .add _ | .addcU _ | .addcS _ | .sub _ | .subbU _ | .subbS _ | .mul _ | .mulwU _ | .mulwS _
  | .shl _ | .shrU _ | .shrS _ | .rol _ | .ror _ | .clz _ | .ctz _ | .divremU _ | .divremS _
  | .parseU _ _ | .parseS _ _ | .tobe | .tole | .frombe _ | .fromle _ | .tocompact | .fromcompact _ => false

/-- The commands that write STATUS.ERR (10_state.md R33). -/
def writesErr : Instr → Bool
  | .parseU _ _ | .parseS _ _ | .fromcompact _ => true
  | .add _ | .addcU _ | .addcS _ | .sub _ | .subbU _ | .subbS _ | .mul _ | .mulwU _ | .mulwS _
  | .shl _ | .shrU _ | .shrS _ | .rol _ | .ror _ | .clz _ | .ctz _ | .divremU _ | .divremS _
  | .fmtU _ _ | .fmtS _ _ | .tobe | .tole | .frombe _ | .fromle _ | .tocompact => false

/-- The commands that write RES2 (10_state.md R23). -/
def writesRes2 : Instr → Bool
  | .divremU _ | .divremS _ => true
  | .add _ | .addcU _ | .addcS _ | .sub _ | .subbU _ | .subbS _ | .mul _ | .mulwU _ | .mulwS _
  | .shl _ | .shrU _ | .shrS _ | .rol _ | .ror _ | .clz _ | .ctz _ | .fmtU _ _ | .fmtS _ _
  | .parseU _ _ | .parseS _ _ | .tobe | .tole | .frombe _ | .fromle _ | .tocompact | .fromcompact _ => false

/-- The commands that write BUF and LEN (10_state.md R26, R41). -/
def writesBuf : Instr → Bool
  | .fmtU _ _ | .fmtS _ _ | .tobe | .tole | .tocompact => true
  | .add _ | .addcU _ | .addcS _ | .sub _ | .subbU _ | .subbS _ | .mul _ | .mulwU _ | .mulwS _
  | .shl _ | .shrU _ | .shrS _ | .rol _ | .ror _ | .clz _ | .ctz _ | .divremU _ | .divremS _
  | .parseU _ _ | .parseS _ _ | .frombe _ | .fromle _ | .fromcompact _ => false

/-! ### The words of the spec's tables -/

/-- The OP values of 30_encoding.md R83. -/
def assignedOps : List Nat :=
  [0x01, 0x02, 0x03, 0x04, 0x05, 0x06, 0x07, 0x08, 0x09, 0x10, 0x11, 0x12, 0x13, 0x14, 0x15, 0x16,
   0x20, 0x21, 0x30, 0x31, 0x38, 0x39, 0x40, 0x41, 0x42, 0x43, 0x44, 0x45]

/-- The six conditions of 30_encoding.md R88 on the bits of a word. -/
def illegalWord (c : Word) : Prop :=
  let op := (c.extractLsb' 0 8).toNat
  let radix := (c.extractLsb' 16 6).toNat
  let ip := c.getLsbD 8
  let uc := c.getLsbD 9
  op ∉ assignedOps ∨
  (c.extractLsb' 10 6).toNat ≠ 0 ∨ (c.extractLsb' 22 10).toNat ≠ 0 ∨
  (ip = true ∧ op ∈ [0x30, 0x31, 0x40, 0x41, 0x44]) ∨
  (uc = true ∧ (op ∉ [0x30, 0x31] ∨ radix ≠ 16)) ∨
  (op ∈ [0x30, 0x31] ∧ radix ∉ [2, 8, 10, 16]) ∨
  (op ∉ [0x30, 0x31, 0x38, 0x39] ∧ radix ≠ 0)

/-- The digit alphabets of 43_formatter.md R169, as ASCII bytes. -/
def alphabet : DigitCase → List Byte
  | .lower => [0x30, 0x31, 0x32, 0x33, 0x34, 0x35, 0x36, 0x37, 0x38, 0x39, 0x61, 0x62, 0x63, 0x64, 0x65, 0x66]
  | .upper => [0x30, 0x31, 0x32, 0x33, 0x34, 0x35, 0x36, 0x37, 0x38, 0x39, 0x41, 0x42, 0x43, 0x44, 0x45, 0x46]

/-- The text of a number: its digits in the radix, the most significant first, `0` for 0, in an alphabet
(43_formatter.md R167). -/
def numeral (letters : DigitCase) (radix x : Nat) : List Byte :=
  (if x = 0 then [0] else (Nat.digits radix x).reverse).map fun d => (alphabet letters).getD d 0

/-- `body` is text of valid digits in the radix and `n` is the number they write (44_parser.md R185). -/
def Denotes (radix : Nat) (body : List Byte) (n : Nat) : Prop :=
  ∃ vals : List Nat, body.map digitOf = vals.map some ∧ (∀ v ∈ vals, v < radix) ∧
    n = Nat.ofDigits radix vals.reverse

/-- The text in BUF and LEN, with LEN in its range (44_parser.md R181). -/
def HoldsText (s : State) (text : List Byte) : Prop :=
  s.len.toNat ≤ 512 ∧ memRead s.buf 0 s.len.toNat = some text

/-! ### Good states -/

/-- A register word nothing has written holds the pattern of reset, so that equal machines are equal data. -/
def Reg256.Wf (r : Reg256) : Prop := ∀ k : Fin 8, r.written[k] = false → wordAt r.bits k = 0

/-- The reserved bits of STATUS: 3:2, 7, 11:9 and 31:16 (10_state.md R27). -/
def statusReserved : Word := 0xffff0e8c

/-- What every step keeps: BUF canonical, the reserved bits of LEN and STATUS zero, only codes of
10_state.md R33 and 60_exceptions.md R211 in STATUS, and the fault record empty exactly without a fault. -/
structure State.Wf (s : State) : Prop where
  opa : s.opa.Wf
  opb : s.opb.Wf
  res : s.res.Wf
  res2 : s.res2.Wf
  cnt : s.cnt.written = false → s.cnt.bits = 0
  len : s.len.toNat < 1024
  reserved : s.status &&& statusReserved = 0
  err : (statusErr s.status).toNat ≤ 5
  fcause : (statusFcause s.status).toNat ≤ 6
  noFault : statusFault s.status = false → statusFcause s.status = 0 ∧ s.fcmd = 0
  hasFault : statusFault s.status = true → statusFcause s.status ≠ 0
  buf : bufWf s.buf

/-- Which commands raise a cause, by the table of 60_exceptions.md R211, on a decoded command word. -/
def raisesCause (cfg : Config) (cause : FaultCause) (d : Except DecodeError Instr) : Prop :=
  match cause, d with
  | .illegalCommand, .error _ => True
  | .shiftRange, .ok (.shl _) => True
  | .shiftRange, .ok (.shrU _) => True
  | .shiftRange, .ok (.shrS _) => True
  | .shiftRange, .ok (.rol _) => cfg.rotCount = .fault
  | .shiftRange, .ok (.ror _) => cfg.rotCount = .fault
  | .divideByZero, .ok (.divremU _) => True
  | .divideByZero, .ok (.divremS _) => True
  | .radixRange, .ok (.parseU _ radix) => ¬(2 ≤ radix.toNat ∧ radix.toNat ≤ 36)
  | .radixRange, .ok (.parseS _ radix) => ¬(2 ≤ radix.toNat ∧ radix.toNat ≤ 36)
  | .lenRange, .ok (.parseU _ _) => True
  | .lenRange, .ok (.parseS _ _) => True
  | .lenRange, .ok (.fromcompact _) => True
  | .signedDivOverflow, .ok (.divremS _) => cfg.sdivMinNeg1 = .fault
  | _, _ => False

/-- The fault state tells the truth: with FAULT = 1, FCAUSE is a cause that the command in FCMD can raise
(60_exceptions.md R211, R212, R213). -/
def State.FaultRecordTrue (s : State) : Prop :=
  statusFault s.status = true →
    ∃ cause, statusFcause s.status = cause.code ∧ raisesCause s.config cause (decode s.fcmd)

/-- Two states that differ at most in what the host has yet to ask and has been answered. -/
def State.sameBlock (s t : State) : Prop :=
  t = { s with hostOps := t.hostOps, replies := t.replies }

end Sys2Proof.Machine
end

