-- ==== Sys2Proof/Certificates/Slice0/Obligations.lean ====
section
/-! DEFINITION. The statements for the provers. Each docstring names the rule it formalises. -/

open Sys2Proof Sys2Proof.Machine

/-! ### Encoding -/

/-- 30_encoding.md R81, R89: the word of a well-formed command decodes to it, with every field at every legal value. -/
def Obligations.DecodeOfEncode : Prop :=
  ∀ i : Instr, i.wellFormed = true → decode (encode i) = .ok i

/-- 30_encoding.md R89: a word that decodes is the word of the command it decodes to, so no bit of it is dropped. -/
def Obligations.EncodeOfDecode : Prop :=
  ∀ (c : Word) (i : Instr), decode c = .ok i → i.wellFormed = true ∧ encode i = c

/-- 30_encoding.md R88: a word issued while FAULT = 0, in either view, raises ILLEGAL_COMMAND exactly on the six
conditions, whatever is unwritten, and then writes the fault state only. -/
def Obligations.DecodeCheckRaisesIllegalCommand : Prop :=
  ∀ (c : Word) (s : State), statusFault s.status = false →
    ∀ op ∈ [HostOp.writeControl .cmd c, .busWrite 32 (busAddr s.config 0x08c) c],
      (illegalWord c → perform op s = .next (s.raiseFault .illegalCommand c)) ∧
      (¬illegalWord c → ∃ i, decode c = .ok i ∧ perform op s = exec i s)

/-- 30_encoding.md R83, R91: a word of every row of the opcode table with its mnemonic, and the words and the texts of
the example commands. -/
def Obligations.ExampleWordsDecode : Prop :=
  (∀ p ∈ [((0x00000001 : Word), Instr.add .res, "ADD"), (0x00000002, .addcU .res, "ADDC.U"),
      (0x00000003, .addcS .res, "ADDC.S"), (0x00000004, .sub .res, "SUB"), (0x00000005, .subbU .res, "SUBB.U"),
      (0x00000006, .subbS .res, "SUBB.S"), (0x00000007, .mul .res, "MUL"), (0x00000008, .mulwU .res, "MULW.U"),
      (0x00000009, .mulwS .res, "MULW.S"), (0x00000010, .shl .res, "SHL"), (0x00000011, .shrU .res, "SHR.U"),
      (0x00000012, .shrS .res, "SHR.S"), (0x00000013, .rol .res, "ROL"), (0x00000014, .ror .res, "ROR"),
      (0x00000015, .clz .res, "CLZ"), (0x00000016, .ctz .res, "CTZ"), (0x00000020, .divremU .res, "DIVREM.U"),
      (0x00000021, .divremS .res, "DIVREM.S"), (0x000a0030, .fmtU .lower 10, "FMT.U"),
      (0x000a0031, .fmtS .lower 10, "FMT.S"), (0x000a0038, .parseU .res 10, "PARSE.U"),
      (0x000a0039, .parseS .res 10, "PARSE.S"), (0x00000040, .tobe, "TOBE"), (0x00000041, .tole, "TOLE"),
      (0x00000042, .frombe .res, "FROMBE"), (0x00000043, .fromle .res, "FROMLE"),
      (0x00000044, .tocompact, "TOCOMPACT"), (0x00000045, .fromcompact .res, "FROMCOMPACT")],
    decode p.1 = .ok p.2.1 ∧ encode p.2.1 = p.1 ∧ p.2.1.mnemonic = p.2.2) ∧
  ∀ p ∈ [((0x00000001 : Word), Instr.add .res, "ADD"), (0x00000108, .mulwU .opa, "MULW.U.ip"),
      (0x00000110, .shl .opa, "SHL.ip"), (0x00000020, .divremU .res, "DIVREM.U"),
      (0x00100030, .fmtU .lower 16, "FMT.U r=16"), (0x00100230, .fmtU .upper 16, "FMT.U r=16 uc"),
      (0x000a0031, .fmtS .lower 10, "FMT.S r=10"), (0x000a0138, .parseU .opa 10, "PARSE.U.ip r=10"),
      (0x00240039, .parseS .res 36, "PARSE.S r=36"), (0x00000041, .tole, "TOLE"),
      (0x00000042, .frombe .res, "FROMBE")],
    decode p.1 = .ok p.2.1 ∧ encode p.2.1 = p.1 ∧ p.2.1.text = p.2.2

/-! ### Steps, issuing, faults -/

/-- 10_state.md R29, 20_memory.md R51: where the next access writes a command word to CMD, in either view, and
FAULT = 0 and the word decodes, the step is the command on the state without that access. -/
def Obligations.StepRunsTheDecodedCommand : Prop :=
  ∀ (s : State) (c : Word) (i : Instr) (rest : List HostOp),
    statusFault s.status = false → decode c = .ok i →
    (s.hostOps = .busWrite 32 (busAddr s.config 0x08c) c :: rest ∨ s.hostOps = .writeControl .cmd c :: rest) →
    step s = exec i (s.setHostOps rest)

/-- 60_exceptions.md R237; the list of presented accesses is the model's (notes/assumptions/2.md): with none
presented the block holds its state, and `withFetchWord` makes a command the very next. -/
def Obligations.IdleStepAndPresentedCommand : Prop :=
  (∀ s : State, s.hostOps = [] → step s = .next s) ∧
  (∀ (s : State) (i : Instr), i.wellFormed = true → statusFault s.status = false →
    step (s.withFetchWord 32 (encode i).toNat) = exec i s)

/-- 20_memory.md R63, 70_reset_and_hazards.md R250: the steps perform the presented accesses in order, each on the
state the one before left, and end where the first of them ends the run. -/
def Obligations.StepsPerformAccessesInOrder : Prop :=
  ∀ (ops : List HostOp) (s : State),
    Host.Core.run Sys2Proof.core ops.length (s.setHostOps ops) = performAll ops (s.setHostOps [])

/-- 60_exceptions.md R214, 20_memory.md R69: while FAULT = 1 a CMD write changes nothing, in either view. Every
other access does the same whatever STATUS holds, so with FAULT = 1 what it does with FAULT = 0 (a read of STATUS
answers with STATUS, and a reset is OnlyResetLeavesTheFault). What the register-view writes do, for every FAULT. -/
def Obligations.FaultBlocksCommandsOnly : Prop :=
  ∀ s : State,
    (statusFault s.status = true → ∀ op, writesCmd s.config op → perform op s = .next s) ∧
    (∀ (op : HostOp) (w : Word), ¬writesCmd s.config op → ¬readsStatus s.config op → op ≠ .reset →
      (∀ t, perform op s = .next t → perform op (s.setStatus w) = .next (t.setStatus w)) ∧
      (∀ f, perform op s = .fault f → perform op (s.setStatus w) = .fault f)) ∧
    (∀ op, readsStatus s.config op → perform op s = .next { s with replies := .word s.status :: s.replies }) ∧
    (∀ v, perform (.writeOperand .opa v) s = .next { s with opa := Reg256.full v }) ∧
    (∀ v, perform (.writeOperand .opb v) s = .next { s with opb := Reg256.full v }) ∧
    (∀ n, perform (.writeControl .cnt n) s = .next { s with cnt := Reg32.full n }) ∧
    (∀ n, perform (.writeControl .len n) s = .next { s with len := n &&& 0x3ff }) ∧
    (∀ i b, perform (.writeBuf i b) s = .next { s with buf := bufWrite s.buf i b })

/-- 60_exceptions.md R214, R217: no step but a reset leaves the fault state or changes its record or a result, and
a reset leaves it. -/
def Obligations.OnlyResetLeavesTheFault : Prop :=
  ∀ (s t : State) (op : HostOp) (rest : List HostOp),
    statusFault s.status = true → s.hostOps = op :: rest → step s = .next t →
    (op ≠ .reset → t.status = s.status ∧ t.fcmd = s.fcmd ∧ t.res = s.res ∧ t.res2 = s.res2) ∧
    (op = .reset → statusFault t.status = false)

/-- 60_exceptions.md R212: fault entry sets FAULT, FCAUSE and FCMD and no other bit or register; and a command that
goes into the fault state does that and nothing else, its own word in FCMD. The codes of the causes are those of
60_exceptions.md R211. -/
def Obligations.FaultEntryWritesOnlyTheFaultState : Prop :=
  (∀ (s : State) (cause : FaultCause) (word : Word), ∃ w : Word,
    s.raiseFault cause word = { s with status := w, fcmd := word } ∧
    w.getLsbD 8 = true ∧ w.extractLsb' 12 4 = cause.code ∧
    (∀ j, j ≠ 8 → ¬(12 ≤ j ∧ j < 16) → w.getLsbD j = s.status.getLsbD j)) ∧
  (∀ (i : Instr) (s t : State), statusFault s.status = false → exec i s = .next t → statusFault t.status = true →
    ∃ cause, t = s.raiseFault cause (encode i)) ∧
  FaultCause.code .illegalCommand = 1 ∧ FaultCause.code .shiftRange = 2 ∧ FaultCause.code .divideByZero = 3 ∧
  FaultCause.code .radixRange = 4 ∧ FaultCause.code .lenRange = 5 ∧ FaultCause.code .signedDivOverflow = 6

/-- 10_state.md R27, R33: the bits the three other field writes of STATUS change, and the codes of the kinds. -/
def Obligations.StatusFieldWritesKeepOtherBits : Prop :=
  (∀ (b : Bool) (w : Word) (j : Nat), (withOvf b w).getLsbD j = if j = 0 then b else w.getLsbD j) ∧
  (∀ (b : Bool) (w : Word) (j : Nat), (withNeg b w).getLsbD j = if j = 1 then b else w.getLsbD j) ∧
  (∀ (e : BitVec 3) (w : Word) (j : Nat),
    (withErr e w).getLsbD j = if 4 ≤ j ∧ j < 7 then e.getLsbD (j - 4) else w.getLsbD j) ∧
  errOk = 0 ∧ ErrKind.code .empty = 1 ∧ ErrKind.code .invalidDigit = 2 ∧ ErrKind.code .posOverflow = 3 ∧
  ErrKind.code .negOverflow = 4 ∧ ErrKind.code .lengthExceeded = 5

/-- 60_exceptions.md R210: a command that gives a next state faults, reports an error, or completes; a fault and an
error write nothing but their own record. -/
def Obligations.CommandFaultsReportsOrCompletes : Prop :=
  ∀ (i : Instr) (s t : State), exec i s = .next t →
    (∃ cause, t = s.raiseFault cause (encode i)) ∨
    (∃ kind : ErrKind, t = s.setStatus (withErr kind.code s.status)) ∨
    (statusFault t.status = statusFault s.status ∧ statusFcause t.status = statusFcause s.status ∧
      t.fcmd = s.fcmd ∧ (writesErr i = true → statusErr t.status = 0))

/-- 70_reset_and_hazards.md R243, 60_exceptions.md R219: a command gives a next state exactly where the inputs it
reads are written, and is the model fault UNWRITTEN_READ otherwise. -/
def Obligations.CommandRunsExactlyOnWrittenInputs : Prop :=
  ∀ (i : Instr) (s : State),
    (inputsReady i s → ∃ t, exec i s = .next t) ∧ (¬inputsReady i s → exec i s = .fault .unwrittenRead)

/-! ### Reset -/

/-- 10_state.md R38: the state after reset, at State.reset and after the reset input in any state. -/
def Obligations.ResetValues : Prop :=
  ∀ s : State, ∃ t, perform .reset s = .next t ∧
    ∀ u ∈ [t, State.reset],
      (∀ k, u.opa.word k = none ∧ u.opb.word k = none ∧ u.res.word k = none ∧ u.res2.word k = none) ∧
      u.cnt.value = none ∧ u.len = 0 ∧ u.status = 0 ∧ u.fcmd = 0 ∧ (∀ j, bufRead u.buf j = none) ∧
      readRegister u .cmd = some (.word 0)

/-- 70_reset_and_hazards.md R241: after a reset nothing of a command can be seen, whether it completed or was
abandoned before. -/
def Obligations.ResetHidesTheCommandBefore : Prop :=
  ∀ (i : Instr) (s t : State), exec i s = .next t → perform .reset t = perform .reset s

/-! ### Arithmetic -/

/-- 40_arithmetic.md R102, R103, R104: the sum, and OVF by the exact sum, in either destination. -/
def Obligations.AdditionResults : Prop :=
  ∀ (dst : Dst) (s : State) (a b : U256), s.opa.value = some a → s.opb.value = some b →
    exec (.add dst) s = .next (s.setDst dst (a + b)) ∧
    exec (.addcU dst) s = .next ((s.setDst dst (a + b)).setOvf (2 ^ 256 ≤ a.toNat + b.toNat)) ∧
    exec (.addcS dst) s = .next ((s.setDst dst (a + b)).setOvf
      (¬(-2 ^ 255 ≤ a.toInt + b.toInt ∧ a.toInt + b.toInt ≤ 2 ^ 255 - 1)))

/-- 40_arithmetic.md R105, R106, R107: the difference, and OVF by the exact difference. -/
def Obligations.SubtractionResults : Prop :=
  ∀ (dst : Dst) (s : State) (a b : U256), s.opa.value = some a → s.opb.value = some b →
    exec (.sub dst) s = .next (s.setDst dst (a - b)) ∧
    exec (.subbU dst) s = .next ((s.setDst dst (a - b)).setOvf (a.toNat < b.toNat)) ∧
    exec (.subbS dst) s = .next ((s.setDst dst (a - b)).setOvf
      (¬(-2 ^ 255 ≤ a.toInt - b.toInt ∧ a.toInt - b.toInt ≤ 2 ^ 255 - 1)))

/-- 40_arithmetic.md R108, R109, R110: the truncated product, the same in all three, and OVF by the exact product. -/
def Obligations.MultiplicationResults : Prop :=
  ∀ (dst : Dst) (s : State) (a b : U256), s.opa.value = some a → s.opb.value = some b →
    exec (.mul dst) s = .next (s.setDst dst (a * b)) ∧
    exec (.mulwU dst) s = .next ((s.setDst dst (a * b)).setOvf (2 ^ 256 ≤ a.toNat * b.toNat)) ∧
    exec (.mulwS dst) s = .next ((s.setDst dst (a * b)).setOvf
      (¬(-2 ^ 255 ≤ a.toInt * b.toInt ∧ a.toInt * b.toInt ≤ 2 ^ 255 - 1)))

/-- 40_arithmetic.md R101: the carry and borrow chains on the word pair give the whole-value results. -/
def Obligations.WordPairChainsGiveWholeValueResults : Prop :=
  ∀ a b : U256,
    addChain a b = (wrap (uint a + uint b), decide (2 ^ 256 ≤ uint a + uint b)) ∧
    subChain a b = (wrap ((uint a : Int) - uint b), decide (uint a < uint b))

/-- 40_arithmetic.md R111: the word-pair product gives the truncated product. -/
def Obligations.WordPairProductGivesTruncatedProduct : Prop :=
  ∀ a b : U256, mulPair a b = wrap (uint a * uint b) ∧
    (∀ x y : BitVec 128, partialProducts x y = x.toNat * y.toNat)

/-! ### Bit operations -/

/-- 41_bitops.md R132, R133, R134: the shifts by a count below 256. -/
def Obligations.ShiftResults : Prop :=
  ∀ (dst : Dst) (s : State) (a : U256) (n : Word), s.opa.value = some a → s.cnt.value = some n → n.toNat < 256 →
    exec (.shl dst) s = .next (s.setDst dst (a <<< n.toNat)) ∧
    exec (.shrU dst) s = .next (s.setDst dst (a >>> n.toNat)) ∧
    exec (.shrS dst) s = .next (s.setDst dst (a.sshiftRight n.toNat))

/-- 41_bitops.md R131: a shift count of 256 or more is SHIFT_RANGE; so is a rotate count where `ROT_COUNT` is fault,
and where it is modulo the rotate uses the count modulo 256. The default is fault. -/
def Obligations.CountOutOfRangeFaults : Prop :=
  Config.standard.rotCount = .fault ∧ ∀ (dst : Dst) (s : State) (a : U256) (n : Word), s.opa.value = some a → s.cnt.value = some n → 256 ≤ n.toNat →
    (∀ i ∈ [Instr.shl dst, .shrU dst, .shrS dst], exec i s = .next (s.raiseFault .shiftRange (encode i))) ∧
    (s.config.rotCount = .fault →
      ∀ i ∈ [Instr.rol dst, .ror dst], exec i s = .next (s.raiseFault .shiftRange (encode i))) ∧
    (s.config.rotCount = .modulo →
      exec (.rol dst) s = .next (s.setDst dst (rotateLeft a (n.toNat % 256))) ∧
      exec (.ror dst) s = .next (s.setDst dst (rotateRight a (n.toNat % 256))))

/-- 41_bitops.md R135, R136: bit i of a rotate by n is OPA[(i - n) mod 256] or OPA[(i + n) mod 256], for a count
below 256, and for every count where `ROT_COUNT` is modulo. -/
def Obligations.RotateResults : Prop :=
  ∀ (dst : Dst) (s : State) (a : U256) (n : Word), s.opa.value = some a → s.cnt.value = some n →
    (n.toNat < 256 ∨ s.config.rotCount = .modulo) →
    (∃ r : U256, exec (.rol dst) s = .next (s.setDst dst r) ∧
      ∀ i < 256, r.getLsbD i = a.getLsbD ((i + 256 - n.toNat % 256) % 256)) ∧
    (∃ r : U256, exec (.ror dst) s = .next (s.setDst dst r) ∧
      ∀ i < 256, r.getLsbD i = a.getLsbD ((i + n.toNat) % 256))

/-- 41_bitops.md R137, R138: the counts of leading and trailing zero bits, 256 for 0. -/
def Obligations.ZeroCountResults : Prop :=
  ∀ (dst : Dst) (s : State) (a : U256), s.opa.value = some a →
    (∃ k, k ≤ 256 ∧ exec (.clz dst) s = .next (s.setDst dst (BitVec.ofNat 256 k)) ∧
      (∀ j < k, a.getMsbD j = false) ∧ (k < 256 → a.getMsbD k = true)) ∧
    (∃ k, k ≤ 256 ∧ exec (.ctz dst) s = .next (s.setDst dst (BitVec.ofNat 256 k)) ∧
      (∀ j < k, a.getLsbD j = false) ∧ (k < 256 → a.getLsbD k = true))

/-- 41_bitops.md R139: the word-pair method gives the same counts, 128 for a zero word and 256 for zero. -/
def Obligations.WordPairZeroCountsAgree : Prop :=
  (∀ a : U256, clzPair a = leadingZeros a ∧ ctzPair a = trailingZeros a) ∧ clz128 0 = 128 ∧ ctz128 0 = 128 ∧
    clzPair 0 = 256 ∧ ctzPair 0 = 256

/-! ### Division -/

/-- 42_division.md R151, R156: unsigned quotient and remainder, exactly. -/
def Obligations.UnsignedDivisionLaw : Prop :=
  ∀ (dst : Dst) (s : State) (a b : U256), s.opa.value = some a → s.opb.value = some b → b ≠ 0 →
    ∃ q r : U256, exec (.divremU dst) s = .next ((s.setDst dst q).setRes2 r) ∧
      a.toNat = q.toNat * b.toNat + r.toNat ∧ r.toNat < b.toNat

/-- 42_division.md R152, R156: signed quotient and remainder, rounding toward zero, but for -2^255 by -1. -/
def Obligations.SignedDivisionLaw : Prop :=
  ∀ (dst : Dst) (s : State) (a b : U256), s.opa.value = some a → s.opb.value = some b → b ≠ 0 →
    ¬(a.toInt = -2 ^ 255 ∧ b.toInt = -1) →
    ∃ q r : U256, exec (.divremS dst) s = .next ((s.setDst dst q).setRes2 r) ∧
      q.toInt = Int.tdiv a.toInt b.toInt ∧ a.toInt = q.toInt * b.toInt + r.toInt ∧
      r.toInt.natAbs < b.toInt.natAbs ∧ (r.toInt = 0 ∨ (r.toInt < 0 ↔ a.toInt < 0))

/-- 42_division.md R153: division by zero faults, for both commands, whatever OPA holds. -/
def Obligations.DivisionByZeroFaults : Prop :=
  ∀ (dst : Dst) (s : State) (a : U256), s.opa.value = some a → s.opb.value = some 0 →
    ∀ i ∈ [Instr.divremU dst, .divremS dst],
      exec i s = .next (s.raiseFault .divideByZero (encode i)) ∧
      (s.raiseFault .divideByZero (encode i)).opa = s.opa ∧ (s.raiseFault .divideByZero (encode i)).res = s.res ∧
      (s.raiseFault .divideByZero (encode i)).res2 = s.res2

/-- 42_division.md R154: -2^255 by -1, under both values of `SDIV_MIN_NEG1`, and its default. -/
def Obligations.SignedDivisionOfMinByMinusOne : Prop :=
  Config.standard.sdivMinNeg1 = .wrap ∧ ∀ (dst : Dst) (s : State), s.opa.value = some (BitVec.ofNat 256 (2 ^ 255)) →
    s.opb.value = some (BitVec.allOnes 256) →
    (s.config.sdivMinNeg1 = .wrap →
      exec (.divremS dst) s = .next ((s.setDst dst (BitVec.ofNat 256 (2 ^ 255))).setRes2 0)) ∧
    (s.config.sdivMinNeg1 = .fault →
      exec (.divremS dst) s = .next (s.raiseFault .signedDivOverflow (encode (.divremS dst))) ∧
      FaultCause.code .signedDivOverflow = 6)

/-- 42_division.md R155: the restoring bit-by-bit long division gives the quotient and the remainder. -/
def Obligations.BitwiseLongDivisionAgrees : Prop :=
  ∀ a b : U256, b ≠ 0 → divBitwise a b = (uint a / uint b, uint a % uint b)

/-! ### Formatter -/

/-- 43_formatter.md R167: FMT.U leaves the numeral of the unsigned reading in BUF, its length in LEN, and NEG = 0. -/
def Obligations.FormatUnsignedResult : Prop :=
  ∀ (letters : DigitCase) (radix : BitVec 6) (s : State) (a : U256), s.opa.value = some a →
    radix.toNat ∈ [2, 8, 10, 16] → (letters = .upper → radix.toNat = 16) →
    exec (.fmtU letters radix) s = .next { s with
      buf := memWrite s.buf 0 (numeral letters radix.toNat a.toNat)
      len := BitVec.ofNat 32 (numeral letters radix.toNat a.toNat).length
      status := withNeg false s.status }

/-- 43_formatter.md R168: FMT.S leaves the numeral of the magnitude with NEG the sign in radix 10 and under
`SIGNED_RADIX_FMT` = sign_magnitude, and else that of the pattern with NEG = 0. -/
def Obligations.FormatSignedResult : Prop :=
  ∀ (letters : DigitCase) (radix : BitVec 6) (s : State) (a : U256), s.opa.value = some a →
    radix.toNat ∈ [2, 8, 10, 16] → (letters = .upper → radix.toNat = 16) →
    (radix.toNat = 10 ∨ s.config.signedRadixFmt = .signMagnitude →
      exec (.fmtS letters radix) s = .next { s with
        buf := memWrite s.buf 0 (numeral letters radix.toNat a.toInt.natAbs)
        len := BitVec.ofNat 32 (numeral letters radix.toNat a.toInt.natAbs).length
        status := withNeg (a.toInt < 0) s.status }) ∧
    (radix.toNat ≠ 10 → s.config.signedRadixFmt = .twosComplement →
      exec (.fmtS letters radix) s = .next { s with
        buf := memWrite s.buf 0 (numeral letters radix.toNat a.toNat)
        len := BitVec.ofNat 32 (numeral letters radix.toNat a.toNat).length
        status := withNeg false s.status })

/-- 43_formatter.md R167, R172: the longest strings, reached by 2^256 - 1: of the numerals, and of what FMT.U and
FMT.S leave in LEN. -/
def Obligations.NumeralLengths : Prop :=
  ∀ (letters : DigitCase), ∀ p ∈ [(2, 256), (8, 86), (10, 78), (16, 64)],
    (∀ x < 2 ^ 256, 1 ≤ (numeral letters p.1 x).length ∧ (numeral letters p.1 x).length ≤ p.2) ∧
    (numeral letters p.1 (2 ^ 256 - 1)).length = p.2 ∧
    ∀ (radix : BitVec 6) (s : State) (a : U256), s.opa.value = some a →
      radix.toNat = p.1 → (letters = .upper → radix.toNat = 16) →
      (∀ i ∈ [Instr.fmtU letters radix, .fmtS letters radix],
        ∃ t, exec i s = .next t ∧ 1 ≤ t.len.toNat ∧ t.len.toNat ≤ p.2) ∧
      (a = BitVec.allOnes 256 → ∃ t, exec (.fmtU letters radix) s = .next t ∧ t.len.toNat = p.2)

/-- 43_formatter.md R171: the decimal method by groups of four digits gives the digits of R167. -/
def Obligations.DecimalByGroupsAgrees : Prop :=
  ∀ (letters : DigitCase) (x : Nat), x < 2 ^ 256 →
    (decimalByGroups 20 x).map (digitByte letters) = digitString letters 10 x

/-! ### Parser -/

/-- 44_parser.md R185: the digit values of all bytes, and the bytes that are no valid digit in a radix, which the
parse answers with INVALID_DIGIT. -/
def Obligations.DigitValues : Prop :=
  ∀ ch : Byte,
    (0x30 ≤ ch.toNat → ch.toNat ≤ 0x39 → digitOf ch = some (ch.toNat - 0x30)) ∧
    (0x61 ≤ ch.toNat → ch.toNat ≤ 0x7a → digitOf ch = some (ch.toNat - 0x61 + 10)) ∧
    (0x41 ≤ ch.toNat → ch.toNat ≤ 0x5a → digitOf ch = some (ch.toNat - 0x41 + 10)) ∧
    (¬(0x30 ≤ ch.toNat ∧ ch.toNat ≤ 0x39) → ¬(0x61 ≤ ch.toNat ∧ ch.toNat ≤ 0x7a) →
      ¬(0x41 ≤ ch.toNat ∧ ch.toNat ≤ 0x5a) → digitOf ch = none) ∧
    (∀ (radix : Nat) (lo hi : Int) (neg : Bool) (acc : Int),
      accumulate radix lo hi neg acc ch = .error .invalidDigit ↔ ¬∃ d, digitOf ch = some d ∧ d < radix)

/-- 44_parser.md R181, R184, R188: PARSE.U of valid digits, with or without `+`: the number where the text ends
there, or POS_OVERFLOW where they are above 2^256 - 1, whatever stands after them. -/
def Obligations.ParseUnsignedResult : Prop :=
  ∀ (dst : Dst) (radix : BitVec 6) (s : State) (sign body rest : List Byte) (n : Nat),
    2 ≤ radix.toNat → radix.toNat ≤ 36 → HoldsText s (sign ++ body ++ rest) → sign ∈ [[], [0x2b]] → body ≠ [] →
    Denotes radix.toNat body n →
    (rest = [] → n ≤ 2 ^ 256 - 1 →
      exec (.parseU dst radix) s = .next ((s.setDst dst (BitVec.ofNat 256 n)).setStatus (withErr 0 s.status))) ∧
    (2 ^ 256 - 1 < n → exec (.parseU dst radix) s = .next (s.setStatus (withErr 3 s.status)))

/-- 44_parser.md R181, R184, R188: PARSE.S of valid digits, with no sign, `+` or `-`: the number where the text ends
there, or POS_OVERFLOW above 2^255 - 1 or NEG_OVERFLOW below -2^255, whatever stands after them. -/
def Obligations.ParseSignedResult : Prop :=
  ∀ (dst : Dst) (radix : BitVec 6) (s : State) (sign body rest : List Byte) (n : Nat),
    2 ≤ radix.toNat → radix.toNat ≤ 36 → HoldsText s (sign ++ body ++ rest) → body ≠ [] →
    Denotes radix.toNat body n →
    (sign ∈ [[], [0x2b]] →
      (rest = [] → n ≤ 2 ^ 255 - 1 →
        exec (.parseS dst radix) s = .next ((s.setDst dst (BitVec.ofNat 256 n)).setStatus (withErr 0 s.status))) ∧
      (2 ^ 255 - 1 < n → exec (.parseS dst radix) s = .next (s.setStatus (withErr 3 s.status)))) ∧
    (sign = [0x2d] →
      (rest = [] → n ≤ 2 ^ 255 →
        exec (.parseS dst radix) s = .next ((s.setDst dst (BitVec.ofInt 256 (-n))).setStatus (withErr 0 s.status))) ∧
      (2 ^ 255 < n → exec (.parseS dst radix) s = .next (s.setStatus (withErr 4 s.status))))

/-- 44_parser.md R182: EMPTY, for no text and for a sign alone. -/
def Obligations.ParseEmptyText : Prop :=
  ∀ (dst : Dst) (radix : BitVec 6) (s : State) (text : List Byte),
    2 ≤ radix.toNat → radix.toNat ≤ 36 → HoldsText s text →
    (text ∈ [[], [0x2b]] →
      exec (.parseU dst radix) s = .next (s.setStatus (withErr 1 s.status)) ∧
      exec (.parseS dst radix) s = .next (s.setStatus (withErr 1 s.status))) ∧
    (text = [0x2d] →
      exec (.parseS dst radix) s = .next (s.setStatus (withErr 1 s.status)) ∧
      exec (.parseU dst radix) s = .next (s.setStatus (withErr 2 s.status)))

/-- 44_parser.md R183, R188: the first byte after the sign that is no valid digit is INVALID_DIGIT, where the digits
before it are in range and whatever stands after it. -/
def Obligations.ParseInvalidDigit : Prop :=
  ∀ (dst : Dst) (radix : BitVec 6) (s : State) (sign good rest : List Byte) (bad : Byte) (n : Nat),
    2 ≤ radix.toNat → radix.toNat ≤ 36 → HoldsText s (sign ++ good ++ bad :: rest) →
    Denotes radix.toNat good n → (∀ d, digitOf bad = some d → radix.toNat ≤ d) →
    ((sign = [] ∧ (good = [] → bad ≠ 0x2b) ∨ sign = [0x2b]) → n ≤ 2 ^ 256 - 1 →
      exec (.parseU dst radix) s = .next (s.setStatus (withErr 2 s.status))) ∧
    ((sign = [] ∧ (good = [] → bad ≠ 0x2b ∧ bad ≠ 0x2d) ∨ sign = [0x2b]) → n ≤ 2 ^ 255 - 1 →
      exec (.parseS dst radix) s = .next (s.setStatus (withErr 2 s.status))) ∧
    (sign = [0x2d] → n ≤ 2 ^ 255 →
      exec (.parseS dst radix) s = .next (s.setStatus (withErr 2 s.status)))

/-- 60_exceptions.md R215, 44_parser.md R186: LEN_RANGE is checked first, then RADIX_RANGE, and neither reads BUF. -/
def Obligations.ParseRangeFaults : Prop :=
  ∀ (dst : Dst) (radix : BitVec 6) (s : State), ∀ i ∈ [Instr.parseU dst radix, .parseS dst radix],
    (512 < s.len.toNat → exec i s = .next (s.raiseFault .lenRange (encode i))) ∧
    (s.len.toNat ≤ 512 → ¬(2 ≤ radix.toNat ∧ radix.toNat ≤ 36) →
      exec i s = .next (s.raiseFault .radixRange (encode i)))

/-- 44_parser.md R187: FMT.U and then PARSE.U in the same radix give back OPA, for every OPA. -/
def Obligations.FormatThenParseGivesBackTheValue : Prop :=
  ∀ (letters : DigitCase) (dst : Dst) (radix : BitVec 6) (s t : State) (a : U256),
    radix.toNat ∈ [2, 8, 10, 16] → s.opa.value = some a → (letters = .upper → radix.toNat = 16) →
    exec (.fmtU letters radix) s = .next t →
    exec (.parseU dst radix) t = .next ((t.setDst dst a).setStatus (withErr 0 t.status))

/-! ### Codec -/

/-- 45_codec.md R196, R197: TOBE and TOLE leave the 32 bytes of OPA in their order, and LEN = 32. -/
def Obligations.FixedEncodingResults : Prop :=
  ∀ (s : State) (a : U256), s.opa.value = some a →
    (∃ m, exec .tobe s = .next { s with buf := m, len := 32 } ∧
      ∀ j, bufRead m j = if j < 32 then some (a.extractLsb' (8 * (31 - j)) 8) else bufRead s.buf j) ∧
    (∃ m, exec .tole s = .next { s with buf := m, len := 32 } ∧
      ∀ j, bufRead m j = if j < 32 then some (a.extractLsb' (8 * j) 8) else bufRead s.buf j)

/-- 45_codec.md R198, R199: FROMBE and FROMLE give the number whose base-256 digits are the first 32 bytes of BUF,
whatever LEN holds. -/
def Obligations.FixedDecodingResults : Prop :=
  ∀ (dst : Dst) (s : State) (bs : List Byte), bs.length = 32 →
    (∀ j < 32, bufRead s.buf j = bs[j]?) →
    exec (.frombe dst) s = .next (s.setDst dst (BitVec.ofNat 256 (Nat.ofDigits 256 (bs.reverse.map BitVec.toNat)))) ∧
    exec (.fromle dst) s = .next (s.setDst dst (BitVec.ofNat 256 (Nat.ofDigits 256 (bs.map BitVec.toNat))))

/-- 45_codec.md R200: TOCOMPACT leaves the fewest big-endian bytes that hold OPA; for 0, none or one zero byte, as
`COMPACT_ZERO` says. -/
def Obligations.CompactEncodingResult : Prop :=
  ∀ (s : State) (a : U256), s.opa.value = some a →
    ∃ k m, exec .tocompact s = .next { s with buf := m, len := BitVec.ofNat 32 k } ∧ k ≤ 32 ∧
      a.toNat < 256 ^ k ∧
      (a ≠ 0 → 1 ≤ k ∧ 256 ^ (k - 1) ≤ a.toNat) ∧
      (a = 0 → k = if s.config.compactZero = .oneZeroByte then 1 else 0) ∧
      ∀ j, bufRead m j = if j < k then some (a.extractLsb' (8 * (k - 1 - j)) 8) else bufRead s.buf j

/-- 45_codec.md R201: FROMCOMPACT of at most 32 bytes gives their big-endian number and ERR = OK; LEN above 512 is
LEN_RANGE. -/
def Obligations.CompactDecodingResult : Prop :=
  ∀ (dst : Dst) (s : State),
    (∀ bs : List Byte, bs.length = s.len.toNat → s.len.toNat ≤ 32 →
      (∀ j < s.len.toNat, bufRead s.buf j = bs[j]?) →
      exec (.fromcompact dst) s = .next ((s.setDst dst
        (BitVec.ofNat 256 (Nat.ofDigits 256 (bs.reverse.map BitVec.toNat)))).setStatus (withErr 0 s.status))) ∧
    (512 < s.len.toNat →
      exec (.fromcompact dst) s = .next (s.raiseFault .lenRange (encode (.fromcompact dst))))

/-- 45_codec.md R203: 33 to 512 bytes are LENGTH_EXCEEDED, whatever the bytes are. -/
def Obligations.CompactLengthExceeded : Prop :=
  ∀ (dst : Dst) (s : State), 33 ≤ s.len.toNat → s.len.toNat ≤ 512 →
    exec (.fromcompact dst) s = .next (s.setStatus (withErr 5 s.status))

/-- 45_codec.md R202: the round trips of the three encodings, and the compact length is minimal. -/
def Obligations.CodecRoundTrips : Prop :=
  ∀ (dst : Dst) (s : State) (a : U256), s.opa.value = some a →
    (∃ t, exec .tobe s = .next t ∧ exec (.frombe dst) t = .next (t.setDst dst a)) ∧
    (∃ t, exec .tole s = .next t ∧ exec (.fromle dst) t = .next (t.setDst dst a)) ∧
    (∃ t, exec .tocompact s = .next t ∧
      exec (.fromcompact dst) t = .next ((t.setDst dst a).setStatus (withErr 0 t.status)) ∧
      (1 ≤ t.len.toNat → a ≠ 0 → ∃ b, bufRead t.buf 0 = some b ∧ b ≠ 0))

/-! ### Frames -/

/-- 10_state.md R41: what no command changes, and what each changes only where its row of the matrix says so. -/
def Obligations.CommandsWriteOnlyTheirRow : Prop :=
  ∀ (i : Instr) (s t : State), exec i s = .next t →
    t.opb = s.opb ∧ t.cnt = s.cnt ∧ t.config = s.config ∧ t.hostOps = s.hostOps ∧ t.replies = s.replies ∧
    (i.dst? ≠ some .opa → t.opa = s.opa) ∧ (i.dst? ≠ some .res → t.res = s.res) ∧
    (writesRes2 i = false → t.res2 = s.res2) ∧ (writesBuf i = false → t.len = s.len) ∧
    (t.fcmd = s.fcmd ∨ t.fcmd = encode i ∧ statusFault t.status = true)

/-- 10_state.md R31, R32, R33, R34: each field of STATUS changes only by the commands that write it, FAULT is never
cleared by a command, and the reserved bits never change. -/
def Obligations.StatusFieldsChangeOnlyByTheirCommands : Prop :=
  ∀ (i : Instr) (s t : State), exec i s = .next t →
    (writesOvf i = false → statusOvf t.status = statusOvf s.status) ∧
    (writesNeg i = false → statusNeg t.status = statusNeg s.status) ∧
    (writesErr i = false → statusErr t.status = statusErr s.status) ∧
    (statusFault s.status = true → statusFault t.status = true) ∧
    (statusFault t.status = false → statusFcause t.status = statusFcause s.status) ∧
    t.status &&& statusReserved = s.status &&& statusReserved

/-- 10_state.md R35: a command leaves every byte of BUF it does not name unchanged. The stored bytes are from index 0,
as many as the string the command stores has. -/
def Obligations.CommandsKeepOtherBytes : Prop :=
  ∀ (s t : State),
    (∀ i, writesBuf i = false → exec i s = .next t → ∀ j, bufRead t.buf j = bufRead s.buf j) ∧
    (∀ i ∈ [Instr.tobe, .tole], exec i s = .next t → ∀ j, 32 ≤ j → bufRead t.buf j = bufRead s.buf j) ∧
    (∀ a, s.opa.value = some a → exec .tocompact s = .next t →
      ∀ j, compactLength s.config a ≤ j → bufRead t.buf j = bufRead s.buf j) ∧
    (∀ a letters radix, s.opa.value = some a → exec (.fmtU letters radix) s = .next t →
      ∀ j, (digitString letters radix.toNat (uint a)).length ≤ j → bufRead t.buf j = bufRead s.buf j) ∧
    (∀ a letters radix, s.opa.value = some a → exec (.fmtS letters radix) s = .next t →
      ∀ j, (digitString letters radix.toNat
        (if formatsMagnitude s.config radix then (sint a).natAbs else uint a)).length ≤ j →
        bufRead t.buf j = bufRead s.buf j)

/-- 70_reset_and_hazards.md R244: no step changes a parameter. -/
def Obligations.StepsKeepTheParameters : Prop :=
  ∀ s t : State, step s = .next t → t.config = s.config

/-! ### The window and the two views -/

/-- 20_memory.md R57, R69, 10_state.md R28: a host read changes no state of the block, and repeated it gives the same
reply. `ReadReg(r)` answers with the register and `ReadBuf(i)` with the byte, and a read of what is unwritten is
UNWRITTEN_READ, whatever FAULT is. -/
def Obligations.ReadsHaveNoSideEffects : Prop :=
  (∀ (s t : State) (op : HostOp),
    (∃ addr, op = .busRead 32 addr) ∨ (∃ r, op = .readReg r) ∨ (∃ i, op = .readBuf i) →
    perform op s = .next t →
    ∃ r : Reply, t = { s with replies := r :: s.replies } ∧
      perform op t = .next { s with replies := r :: r :: s.replies }) ∧
  ∀ s : State,
    (∀ p ∈ [(RegName.opa, s.opa), (.opb, s.opb), (.res, s.res), (.res2, s.res2)],
      (∀ v, p.2.value = some v → perform (.readReg p.1) s = .next { s with replies := .wide v :: s.replies }) ∧
      (p.2.value = none → perform (.readReg p.1) s = .fault .unwrittenRead)) ∧
    (s.cnt.written = true → perform (.readReg .cnt) s = .next { s with replies := .word s.cnt.bits :: s.replies }) ∧
    (s.cnt.written = false → perform (.readReg .cnt) s = .fault .unwrittenRead) ∧
    (∀ p ∈ [(RegName.len, s.len), (.status, s.status), (.cmd, 0), (.fcmd, s.fcmd)],
      perform (.readReg p.1) s = .next { s with replies := .word p.2 :: s.replies }) ∧
    (∀ i : Fin 512,
      (∀ b, bufRead s.buf i = some b → perform (.readBuf i) s = .next { s with replies := .byte b :: s.replies }) ∧
      (bufRead s.buf i = none → perform (.readBuf i) s = .fault .unwrittenRead))

/-- 20_memory.md R55: an access that is not 32 bits wide, or whose offset is not a multiple of 4, is BUS_ERROR. -/
def Obligations.MisalignedOrNarrowAccessIsBusError : Prop :=
  ∀ (s : State) (width off : Nat) (w : Word), off < 1024 → (width ≠ 32 ∨ off % 4 ≠ 0) →
    perform (.busRead width (busAddr s.config off)) s = .fault .busError ∧
    perform (.busWrite width (busAddr s.config off) w) s = .fault .busError

/-- 20_memory.md R56: reads and writes with no target. -/
def Obligations.AccessesWithNoTarget : Prop :=
  ∀ (s : State) (w : Word),
    (∀ off, 0x094 ≤ off → off < 0x200 → off % 4 = 0 →
      perform (.busRead 32 (busAddr s.config off)) s = .next { s with replies := .word 0 :: s.replies } ∧
      perform (.busWrite 32 (busAddr s.config off) w) s = .next s) ∧
    (∀ off, (0x040 ≤ off ∧ off < 0x080 ∧ off % 4 = 0) ∨ off = 0x088 ∨ off = 0x090 →
      perform (.busWrite 32 (busAddr s.config off) w) s = .next s) ∧
    perform (.busRead 32 (busAddr s.config 0x08c)) s = .next { s with replies := .word 0 :: s.replies } ∧
    (∃ t, perform (.busWrite 32 (busAddr s.config 0x084) w) s = .next t ∧
      (∀ j, t.len.getLsbD j = if j < 10 then w.getLsbD j else false) ∧ t = { s with len := t.len } ∧
      perform (.busRead 32 (busAddr s.config 0x084)) t = .next { t with replies := .word t.len :: t.replies })

/-- 20_memory.md R51, R53, 10_state.md R28: word k of a 256-bit register stands at its offset plus 4k, and holds bits
32k+31 to 32k; each 32-bit register stands at its own offset. A word is answered exactly where it is written. A write
of a word of OPA or OPB, or of CNT, writes that word only. -/
def Obligations.RegisterWordsOnTheBus : Prop :=
  ∀ s : State,
    (∀ k : Fin 8, ∀ p ∈ [(0x000, s.opa), (0x020, s.opb), (0x040, s.res), (0x060, s.res2)],
      (p.2.written[k] = true →
        perform (.busRead 32 (busAddr s.config (p.1 + 4 * k))) s =
          .next { s with replies := .word (p.2.bits.extractLsb' (32 * k) 32) :: s.replies }) ∧
      (p.2.written[k] = false →
        perform (.busRead 32 (busAddr s.config (p.1 + 4 * k))) s = .fault .unwrittenRead)) ∧
    (s.cnt.written = true →
      perform (.busRead 32 (busAddr s.config 0x080)) s = .next { s with replies := .word s.cnt.bits :: s.replies }) ∧
    (s.cnt.written = false → perform (.busRead 32 (busAddr s.config 0x080)) s = .fault .unwrittenRead) ∧
    (∀ p ∈ [(0x084, s.len), (0x088, s.status), (0x08c, 0), (0x090, s.fcmd)],
      perform (.busRead 32 (busAddr s.config p.1)) s = .next { s with replies := .word p.2 :: s.replies }) ∧
    ∀ w : Word,
      perform (.busWrite 32 (busAddr s.config 0x080) w) s = .next { s with cnt := Reg32.full w } ∧
      ∀ k : Fin 8,
        (∃ r, perform (.busWrite 32 (busAddr s.config (0x000 + 4 * k)) w) s = .next { s with opa := r } ∧
          ∀ j, r.word j = if j = k then some w else s.opa.word j) ∧
        (∃ r, perform (.busWrite 32 (busAddr s.config (0x020 + 4 * k)) w) s = .next { s with opb := r } ∧
          ∀ j, r.word j = if j = k then some w else s.opb.word j)

/-- 20_memory.md R54: a BUF word holds four bytes, the first in bits 7:0, and a write of it writes those four only.
By 10_state.md R28 a read of a word of which any byte is unwritten is UNWRITTEN_READ (95_test_vectors.md H9). -/
def Obligations.BufWordsOnTheBus : Prop :=
  ∀ (s : State) (j : Nat), j < 128 →
    (∀ b0 b1 b2 b3, bufRead s.buf (4 * j) = some b0 → bufRead s.buf (4 * j + 1) = some b1 →
      bufRead s.buf (4 * j + 2) = some b2 → bufRead s.buf (4 * j + 3) = some b3 →
      perform (.busRead 32 (busAddr s.config (0x200 + 4 * j))) s =
        .next { s with replies := .word (b3 ++ b2 ++ b1 ++ b0) :: s.replies }) ∧
    (∀ n < 4, bufRead s.buf (4 * j + n) = none →
      perform (.busRead 32 (busAddr s.config (0x200 + 4 * j))) s = .fault .unwrittenRead) ∧
    (∀ w : Word, ∃ m, perform (.busWrite 32 (busAddr s.config (0x200 + 4 * j)) w) s = .next { s with buf := m } ∧
      ∀ n, bufRead m n =
        if 4 * j ≤ n ∧ n < 4 * j + 4 then some (w.extractLsb' (8 * (n - 4 * j)) 8) else bufRead s.buf n)

/-- 20_memory.md R69: a whole-register write is the eight word writes of that register, in any order. -/
def Obligations.WholeWriteIsEightWordWrites : Prop :=
  ∀ (s : State) (r : OperandReg) (v : U256) (order : List Nat), order.Perm (List.range 8) →
    performAll (order.map (writeWordOp s.config r v)) s = perform (.writeOperand r v) s

/-! ### Invariants -/

/-- 10_state.md R26, R27, R33, 60_exceptions.md R211: every step keeps BUF canonical, the reserved bits of LEN and
STATUS zero, only defined codes in ERR and FCAUSE, and an empty fault record without a fault. -/
def Obligations.StepKeepsGoodStates : Prop :=
  ∀ s t : State, s.Wf → step s = .next t → t.Wf

/-- 60_exceptions.md R211, R212, R213: in every state a step reaches from a state with a true fault record, FCAUSE is
a cause that the command in FCMD can raise. -/
def Obligations.StepKeepsTheFaultRecordTrue : Prop :=
  ∀ s t : State, s.FaultRecordTrue → step s = .next t → t.FaultRecordTrue

/-- 10_state.md R38: the reset state is a good state, and has no fault to record. -/
def Obligations.ResetIsAGoodStateWithATrueRecord : Prop := State.reset.Wf ∧ State.reset.FaultRecordTrue
end

