-- ==== Sys2Proof/Laws/Bits.lean ====
section
/-! SUPPORT. Bits of a field write, the fields of STATUS after a field write, and the readings of a value. -/

namespace Sys2Proof.Machine

/-- Each bit after a field write: the field's bit inside the field, the old bit outside. -/
theorem getLsbD_putBits {m n : Nat} (v : BitVec m) (lo : Nat) (x : BitVec n) (i : Nat) :
    (putBits v lo x).getLsbD i =
      if i < m ∧ lo ≤ i ∧ i < lo + n then x.getLsbD (i - lo) else v.getLsbD i := by
  unfold putBits
  by_cases hm : i < m
  · by_cases hlo : lo ≤ i
    · have h0 : ¬ i < lo := by omega
      by_cases hn : i < lo + n
      · have h1 : i - lo < n := by omega
        simp [hm, hlo, hn, h0, h1]
      · have h1 : ¬ i - lo < n := by omega
        simp [hm, hlo, hn, h0, h1, BitVec.getLsbD_of_ge x (i - lo) (by omega)]
    · have h0 : i < lo := by omega
      simp [hm, hlo, h0]
  · simp [hm, BitVec.getLsbD_of_ge _ i (Nat.le_of_not_lt hm)]

/-- A field read back after it was written. -/
theorem extract_putBits_same {m n : Nat} (v : BitVec m) (lo : Nat) (x : BitVec n) (h : lo + n ≤ m) :
    (putBits v lo x).extractLsb' lo n = x := by
  apply BitVec.eq_of_getLsbD_eq
  intro i hi
  simp only [BitVec.getLsbD_extractLsb', getLsbD_putBits]
  have h1 : lo + i < m := by omega
  simp [hi, h1]

/-- A field read after another field, above or below it, was written. -/
theorem extract_putBits_apart {m n : Nat} (v : BitVec m) (lo : Nat) (x : BitVec n) (lo' n' : Nat)
    (h : lo' + n' ≤ lo ∨ lo + n ≤ lo') :
    (putBits v lo x).extractLsb' lo' n' = v.extractLsb' lo' n' := by
  apply BitVec.eq_of_getLsbD_eq
  intro i hi
  simp only [BitVec.getLsbD_extractLsb', getLsbD_putBits]
  have : ¬(lo' + i < m ∧ lo ≤ lo' + i ∧ lo' + i < lo + n) := by omega
  simp [this]

/-! ### Fields of STATUS after a field write (10_state.md R27) -/

@[simp] theorem statusOvf_withOvf (b : Bool) (w : Word) : statusOvf (withOvf b w) = b := by
  rw [statusOvf, withOvf, getLsbD_putBits]; simp
@[simp] theorem statusNeg_withOvf (b : Bool) (w : Word) : statusNeg (withOvf b w) = statusNeg w := by
  rw [statusNeg, withOvf, getLsbD_putBits]; simp [statusNeg]
@[simp] theorem statusErr_withOvf (b : Bool) (w : Word) : statusErr (withOvf b w) = statusErr w :=
  extract_putBits_apart _ _ _ _ _ (by decide)
@[simp] theorem statusFault_withOvf (b : Bool) (w : Word) : statusFault (withOvf b w) = statusFault w := by
  rw [statusFault, withOvf, getLsbD_putBits]; simp [statusFault]
@[simp] theorem statusFcause_withOvf (b : Bool) (w : Word) : statusFcause (withOvf b w) = statusFcause w :=
  extract_putBits_apart _ _ _ _ _ (by decide)

@[simp] theorem statusOvf_withNeg (b : Bool) (w : Word) : statusOvf (withNeg b w) = statusOvf w := by
  rw [statusOvf, withNeg, getLsbD_putBits]; simp [statusOvf]
@[simp] theorem statusNeg_withNeg (b : Bool) (w : Word) : statusNeg (withNeg b w) = b := by
  rw [statusNeg, withNeg, getLsbD_putBits]; simp
@[simp] theorem statusErr_withNeg (b : Bool) (w : Word) : statusErr (withNeg b w) = statusErr w :=
  extract_putBits_apart _ _ _ _ _ (by decide)
@[simp] theorem statusFault_withNeg (b : Bool) (w : Word) : statusFault (withNeg b w) = statusFault w := by
  rw [statusFault, withNeg, getLsbD_putBits]; simp [statusFault]
@[simp] theorem statusFcause_withNeg (b : Bool) (w : Word) : statusFcause (withNeg b w) = statusFcause w :=
  extract_putBits_apart _ _ _ _ _ (by decide)

@[simp] theorem statusOvf_withErr (e : BitVec 3) (w : Word) : statusOvf (withErr e w) = statusOvf w := by
  rw [statusOvf, withErr, getLsbD_putBits]; simp [statusOvf]
@[simp] theorem statusNeg_withErr (e : BitVec 3) (w : Word) : statusNeg (withErr e w) = statusNeg w := by
  rw [statusNeg, withErr, getLsbD_putBits]; simp [statusNeg]
@[simp] theorem statusErr_withErr (e : BitVec 3) (w : Word) : statusErr (withErr e w) = e :=
  extract_putBits_same _ _ _ (by decide)
@[simp] theorem statusFault_withErr (e : BitVec 3) (w : Word) : statusFault (withErr e w) = statusFault w := by
  rw [statusFault, withErr, getLsbD_putBits]; simp [statusFault]
@[simp] theorem statusFcause_withErr (e : BitVec 3) (w : Word) : statusFcause (withErr e w) = statusFcause w :=
  extract_putBits_apart _ _ _ _ _ (by decide)

@[simp] theorem statusOvf_withFault (w : Word) : statusOvf (withFault w) = statusOvf w := by
  rw [statusOvf, withFault, getLsbD_putBits]; simp [statusOvf]
@[simp] theorem statusNeg_withFault (w : Word) : statusNeg (withFault w) = statusNeg w := by
  rw [statusNeg, withFault, getLsbD_putBits]; simp [statusNeg]
@[simp] theorem statusErr_withFault (w : Word) : statusErr (withFault w) = statusErr w :=
  extract_putBits_apart _ _ _ _ _ (by decide)
@[simp] theorem statusFault_withFault (w : Word) : statusFault (withFault w) = true := by
  rw [statusFault, withFault, getLsbD_putBits]; simp
@[simp] theorem statusFcause_withFault (w : Word) : statusFcause (withFault w) = statusFcause w :=
  extract_putBits_apart _ _ _ _ _ (by decide)

@[simp] theorem statusOvf_withFcause (k : BitVec 4) (w : Word) : statusOvf (withFcause k w) = statusOvf w := by
  rw [statusOvf, withFcause, getLsbD_putBits]; simp [statusOvf]
@[simp] theorem statusNeg_withFcause (k : BitVec 4) (w : Word) : statusNeg (withFcause k w) = statusNeg w := by
  rw [statusNeg, withFcause, getLsbD_putBits]; simp [statusNeg]
@[simp] theorem statusErr_withFcause (k : BitVec 4) (w : Word) : statusErr (withFcause k w) = statusErr w :=
  extract_putBits_apart _ _ _ _ _ (by decide)
@[simp] theorem statusFault_withFcause (k : BitVec 4) (w : Word) :
    statusFault (withFcause k w) = statusFault w := by
  rw [statusFault, withFcause, getLsbD_putBits]; simp [statusFault]
@[simp] theorem statusFcause_withFcause (k : BitVec 4) (w : Word) : statusFcause (withFcause k w) = k :=
  extract_putBits_same _ _ _ (by decide)

/-! ### Words of a value after a word write (20_memory.md R53) -/

theorem wordAt_putBits_same (v : U256) (k : Fin 8) (w : Word) : wordAt (putBits v (32 * k) w) k = w :=
  extract_putBits_same _ _ _ (by omega)

theorem wordAt_putBits_other (v : U256) (j k : Fin 8) (w : Word) (h : j ≠ k) :
    wordAt (putBits v (32 * k) w) j = wordAt v j :=
  extract_putBits_apart _ _ _ _ _ (by have := Fin.val_ne_of_ne h; omega)

/-! ### Readings (00_scope.md R12) -/

/-- The signed reading is the two's-complement one. -/
theorem sint_eq_toInt (v : U256) : sint v = v.toInt := by
  unfold sint
  rw [BitVec.toInt_eq_msb_cond, BitVec.msb_eq_getLsbD_last]
  norm_num

/-- The unsigned reading of a wrapped integer is the integer modulo 2^256. -/
theorem uint_wrap (x : Int) : (uint (wrap x) : Int) = x % 2 ^ 256 := by
  have h : (0 : Int) ≤ x % 2 ^ 256 := Int.emod_nonneg _ (by norm_num)
  simp only [uint, wrap, BitVec.toNat_ofInt]
  norm_num at h ⊢
  exact h

/-- A value is the pattern of its unsigned reading. -/
theorem wrap_uint (v : U256) : wrap (uint v) = v := by
  simp [wrap, uint]

/-- Every value below 2^256 is the unsigned reading of its pattern. -/
theorem uint_wrap_of_lt (x : Nat) (h : x < 2 ^ 256) : uint (wrap x) = x := by
  simp only [uint, wrap, BitVec.ofInt_natCast, BitVec.toNat_ofNat]
  exact Nat.mod_eq_of_lt h

end Sys2Proof.Machine
end

