-- ==== Sys2Proof/Laws/Memory.lean ====
section
/-! SUPPORT. BUF: a read after a write, the canonical form kept by every write, and equal contents are equal
data. -/

namespace Sys2Proof.Machine

@[simp] theorem bufRead_nil (i : Nat) : bufRead [] i = none := rfl

theorem bufRead_cons (c : Host.Cell) (m : List Host.Cell) (i : Nat) :
    bufRead (c :: m) i = if c.1 = i then some c.2 else bufRead m i := rfl

/-- A byte read after it was written. -/
@[simp] theorem bufRead_bufWrite_same (m : List Host.Cell) (i : Nat) (b : Byte) :
    bufRead (bufWrite m i b) i = some b := by
  induction m with
  | nil => simp [bufWrite, bufRead]
  | cons c m ih =>
    rw [bufWrite]
    split_ifs with h1 h2
    · simp [bufRead]
    · simp [bufRead]
    · simp [bufRead, h2, ih]

/-- A byte read after another was written. -/
theorem bufRead_bufWrite_other (m : List Host.Cell) (i j : Nat) (b : Byte) (h : j ≠ i) :
    bufRead (bufWrite m i b) j = bufRead m j := by
  induction m with
  | nil => simp [bufWrite, bufRead, h.symm]
  | cons c m ih =>
    rw [bufWrite]
    split_ifs with h1 h2
    · rw [bufRead_cons, if_neg h.symm]
    · rw [bufRead_cons, if_neg h.symm, bufRead_cons, if_neg (h2 ▸ h.symm)]
    · rw [bufRead_cons, ih, bufRead_cons]

theorem bufRead_bufWrite (m : List Host.Cell) (i j : Nat) (b : Byte) :
    bufRead (bufWrite m i b) j = if j = i then some b else bufRead m j := by
  split_ifs with h
  · rw [h, bufRead_bufWrite_same]
  · exact bufRead_bufWrite_other m i j b h

/-- Any byte read after a byte string was written: from the string inside it, as before outside it. -/
theorem bufRead_memWrite (m : List Host.Cell) (i : Nat) (bs : List Byte) (j : Nat) :
    bufRead (memWrite m i bs) j = if i ≤ j ∧ j < i + bs.length then bs[j - i]? else bufRead m j := by
  induction bs generalizing m i with
  | nil => simp [memWrite]
  | cons b bs ih =>
    rw [memWrite, ih, bufRead_bufWrite]
    by_cases hj : j = i
    · subst hj; simp
    · by_cases hin : i + 1 ≤ j ∧ j < i + 1 + bs.length
      · have h2 : i ≤ j ∧ j < i + (b :: bs).length := by simp; omega
        rw [if_pos hin, if_pos h2]
        obtain ⟨k, rfl⟩ : ∃ k, j = i + 1 + k := ⟨j - (i + 1), by omega⟩
        have h3 : i + 1 + k - i = k + 1 := by omega
        rw [h3]; simp
      · have h2 : ¬(i ≤ j ∧ j < i + (b :: bs).length) := by simp; omega
        rw [if_neg hin, if_neg hj, if_neg h2]

/-- The indices after a write are those before, and the one written. -/
theorem mem_bufWrite (m : List Host.Cell) (i : Nat) (b : Byte) (c : Host.Cell) (h : c ∈ bufWrite m i b) :
    c ∈ m ∨ c = (i, b) := by
  induction m with
  | nil => simpa [bufWrite] using h
  | cons d m ih =>
    rw [bufWrite] at h
    split_ifs at h
    · simp only [List.mem_cons] at h ⊢; tauto
    · simp only [List.mem_cons] at h ⊢; tauto
    · simp only [List.mem_cons] at h ⊢
      rcases h with h | h
      · exact .inl (.inl h)
      · rcases ih h with h | h
        · exact .inl (.inr h)
        · exact .inr h

/-- A write inside BUF keeps the canonical form. -/
theorem bufWrite_wf (m : List Host.Cell) (i : Nat) (b : Byte) (h : bufWf m) (hi : i < bufSize) :
    bufWf (bufWrite m i b) := by
  refine ⟨?_, fun c hc => ?_⟩
  · obtain ⟨hs, -⟩ := h
    induction m with
    | nil => simp [bufWrite]
    | cons d m ih =>
      rw [List.pairwise_cons] at hs
      rw [bufWrite]
      split_ifs with h1 h2
      · refine List.pairwise_cons.2 ⟨fun c hc => ?_, List.pairwise_cons.2 hs⟩
        rcases List.mem_cons.1 hc with rfl | hc
        · exact h1
        · exact h1.trans (hs.1 c hc)
      · exact List.pairwise_cons.2 ⟨fun c hc => h2 ▸ hs.1 c hc, hs.2⟩
      · refine List.pairwise_cons.2 ⟨fun c hc => ?_, ih hs.2⟩
        rcases mem_bufWrite m i b c hc with hc | rfl
        · exact hs.1 c hc
        · show d.1 < i; omega
  · rcases mem_bufWrite m i b c hc with hc | rfl
    · exact h.2 c hc
    · exact hi

/-- A write of a byte string inside BUF keeps the canonical form. -/
theorem memWrite_wf (m : List Host.Cell) (i : Nat) (bs : List Byte) (h : bufWf m)
    (hi : i + bs.length ≤ bufSize) : bufWf (memWrite m i bs) := by
  induction bs generalizing m i with
  | nil => exact h
  | cons b bs ih =>
    rw [List.length_cons] at hi
    exact ih _ _ (bufWrite_wf m i b h (by omega)) (by omega)

/-- The memory of the reset state is in canonical form. -/
theorem reset_buf_wf : bufWf State.reset.buf := ⟨List.Pairwise.nil, by simp [State.reset]⟩

/-- An index below every listed one reads as unwritten. -/
theorem bufRead_none_of_lt (m : List Host.Cell) (i : Nat) (h : ∀ c ∈ m, i < c.1) : bufRead m i = none := by
  induction m with
  | nil => rfl
  | cons c m ih =>
    rw [bufRead_cons, if_neg (by have := h c (by simp); omega)]
    exact ih fun d hd => h d (by simp [hd])

/-- Equal contents are equal data: two canonical memories that read alike are one. -/
theorem buf_ext (m m' : List Host.Cell) (h : bufWf m) (h' : bufWf m')
    (hr : ∀ i, bufRead m i = bufRead m' i) : m = m' := by
  obtain ⟨hs, -⟩ := h
  obtain ⟨hs', -⟩ := h'
  induction m generalizing m' with
  | nil =>
    cases m' with
    | nil => rfl
    | cons d m' => simpa [bufRead] using hr d.1
  | cons c m ih =>
    cases m' with
    | nil => simpa [bufRead] using hr c.1
    | cons d m' =>
      rw [List.pairwise_cons] at hs hs'
      have hc := hr c.1
      have hd := hr d.1
      simp only [bufRead_cons, if_true] at hc hd
      have key : c.1 = d.1 := by
        by_contra hne
        rcases Nat.lt_or_gt_of_ne hne with hlt | hgt
        · rw [if_neg (Ne.symm hne), bufRead_none_of_lt m' c.1 fun e he => hlt.trans (hs'.1 e he)] at hc
          exact absurd hc (by simp)
        · rw [if_neg hne, bufRead_none_of_lt m d.1 fun e he => Nat.lt_trans hgt (hs.1 e he)] at hd
          exact absurd hd (by simp)
      rw [if_pos key.symm] at hc
      have hcd : c = d := Prod.ext key (Option.some.inj hc)
      subst hcd
      congr 1
      refine ih m' (fun i => ?_) hs.2 hs'.2
      by_cases hi : c.1 = i
      · subst hi
        rw [bufRead_none_of_lt m _ hs.1, bufRead_none_of_lt m' _ hs'.1]
      · simpa [bufRead_cons, hi] using hr i

/-- A read of a byte string that succeeds gives the string's bytes, one for each index. -/
theorem memRead_some (m : List Host.Cell) (i n : Nat) (bs : List Byte) (h : memRead m i n = some bs) :
    bs.length = n ∧ ∀ j < n, bufRead m (i + j) = bs[j]? := by
  induction n generalizing i bs with
  | zero =>
    simp only [memRead, Option.some.injEq] at h
    subst h; simp
  | succ n ih =>
    rw [memRead] at h
    split at h
    · rename_i b rest hb hrest
      obtain rfl := Option.some.inj h
      obtain ⟨hl, hr⟩ := ih _ _ hrest
      refine ⟨by simp [hl], fun j hj => ?_⟩
      cases j with
      | zero => simpa using hb
      | succ j =>
        have := hr j (by omega)
        rw [show i + (j + 1) = i + 1 + j by omega]
        simpa using this
    · exact absurd h (by simp)

/-- A read of a byte string succeeds exactly where every byte of it is written. -/
theorem memRead_ne_none_iff (m : List Host.Cell) (i n : Nat) :
    memRead m i n ≠ none ↔ ∀ j < n, bufRead m (i + j) ≠ none := by
  induction n generalizing i with
  | zero => simp [memRead]
  | succ n ih =>
    have hn := ih (i + 1)
    rw [memRead]
    constructor
    · intro h j hj
      split at h
      · rename_i b rest hb hrest
        cases j with
        | zero => simp [hb]
        | succ j =>
          have := (hn.1 (by simp [hrest])) j (by omega)
          rwa [show i + (j + 1) = i + 1 + j by omega]
      · exact absurd rfl h
    · intro h
      have h0 := h 0 (by omega)
      have h1 : memRead m (i + 1) n ≠ none :=
        hn.2 fun j hj => by
          have := h (j + 1) (by omega)
          rwa [show i + (j + 1) = i + 1 + j by omega] at this
      obtain ⟨b, hb⟩ := Option.ne_none_iff_exists'.1 h0
      obtain ⟨rest, hrest⟩ := Option.ne_none_iff_exists'.1 h1
      simp only [Nat.add_zero] at hb
      simp [hb, hrest]

/-- A byte string read where it was just written. -/
theorem memRead_memWrite (m : List Host.Cell) (i : Nat) (bs : List Byte) :
    memRead (memWrite m i bs) i bs.length = some bs := by
  have hne : memRead (memWrite m i bs) i bs.length ≠ none := by
    rw [memRead_ne_none_iff]
    intro j hj
    rw [bufRead_memWrite, if_pos (by omega)]
    simp [hj]
  obtain ⟨cs, hcs⟩ := Option.ne_none_iff_exists'.1 hne
  obtain ⟨hl, hr⟩ := memRead_some _ _ _ _ hcs
  rw [hcs]
  congr 1
  refine List.ext_getElem? fun j => ?_
  by_cases hj : j < bs.length
  · rw [← hr j hj, bufRead_memWrite, if_pos (by omega)]
    congr 1; omega
  · rw [List.getElem?_eq_none (by omega), List.getElem?_eq_none (by omega)]

end Sys2Proof.Machine
end

