-- ==== Sys2Proof/Laws/State.lean ====
section
/-! SUPPORT. Reading a field after an update of the state: one lemma per field per update, so that no proof
unfolds an update. -/

namespace Sys2Proof.Machine

@[simp] theorem State.setOpa_config (s : State) (v : U256) : (s.setOpa v).config = s.config := rfl
@[simp] theorem State.setOpa_opa (s : State) (v : U256) : (s.setOpa v).opa = Reg256.full v := rfl
@[simp] theorem State.setOpa_opb (s : State) (v : U256) : (s.setOpa v).opb = s.opb := rfl
@[simp] theorem State.setOpa_res (s : State) (v : U256) : (s.setOpa v).res = s.res := rfl
@[simp] theorem State.setOpa_res2 (s : State) (v : U256) : (s.setOpa v).res2 = s.res2 := rfl
@[simp] theorem State.setOpa_cnt (s : State) (v : U256) : (s.setOpa v).cnt = s.cnt := rfl
@[simp] theorem State.setOpa_len (s : State) (v : U256) : (s.setOpa v).len = s.len := rfl
@[simp] theorem State.setOpa_status (s : State) (v : U256) : (s.setOpa v).status = s.status := rfl
@[simp] theorem State.setOpa_fcmd (s : State) (v : U256) : (s.setOpa v).fcmd = s.fcmd := rfl
@[simp] theorem State.setOpa_buf (s : State) (v : U256) : (s.setOpa v).buf = s.buf := rfl
@[simp] theorem State.setOpa_hostOps (s : State) (v : U256) : (s.setOpa v).hostOps = s.hostOps := rfl
@[simp] theorem State.setOpa_replies (s : State) (v : U256) : (s.setOpa v).replies = s.replies := rfl

@[simp] theorem State.setOpb_config (s : State) (v : U256) : (s.setOpb v).config = s.config := rfl
@[simp] theorem State.setOpb_opa (s : State) (v : U256) : (s.setOpb v).opa = s.opa := rfl
@[simp] theorem State.setOpb_opb (s : State) (v : U256) : (s.setOpb v).opb = Reg256.full v := rfl
@[simp] theorem State.setOpb_res (s : State) (v : U256) : (s.setOpb v).res = s.res := rfl
@[simp] theorem State.setOpb_res2 (s : State) (v : U256) : (s.setOpb v).res2 = s.res2 := rfl
@[simp] theorem State.setOpb_cnt (s : State) (v : U256) : (s.setOpb v).cnt = s.cnt := rfl
@[simp] theorem State.setOpb_len (s : State) (v : U256) : (s.setOpb v).len = s.len := rfl
@[simp] theorem State.setOpb_status (s : State) (v : U256) : (s.setOpb v).status = s.status := rfl
@[simp] theorem State.setOpb_fcmd (s : State) (v : U256) : (s.setOpb v).fcmd = s.fcmd := rfl
@[simp] theorem State.setOpb_buf (s : State) (v : U256) : (s.setOpb v).buf = s.buf := rfl
@[simp] theorem State.setOpb_hostOps (s : State) (v : U256) : (s.setOpb v).hostOps = s.hostOps := rfl
@[simp] theorem State.setOpb_replies (s : State) (v : U256) : (s.setOpb v).replies = s.replies := rfl

@[simp] theorem State.setRes_config (s : State) (v : U256) : (s.setRes v).config = s.config := rfl
@[simp] theorem State.setRes_opa (s : State) (v : U256) : (s.setRes v).opa = s.opa := rfl
@[simp] theorem State.setRes_opb (s : State) (v : U256) : (s.setRes v).opb = s.opb := rfl
@[simp] theorem State.setRes_res (s : State) (v : U256) : (s.setRes v).res = Reg256.full v := rfl
@[simp] theorem State.setRes_res2 (s : State) (v : U256) : (s.setRes v).res2 = s.res2 := rfl
@[simp] theorem State.setRes_cnt (s : State) (v : U256) : (s.setRes v).cnt = s.cnt := rfl
@[simp] theorem State.setRes_len (s : State) (v : U256) : (s.setRes v).len = s.len := rfl
@[simp] theorem State.setRes_status (s : State) (v : U256) : (s.setRes v).status = s.status := rfl
@[simp] theorem State.setRes_fcmd (s : State) (v : U256) : (s.setRes v).fcmd = s.fcmd := rfl
@[simp] theorem State.setRes_buf (s : State) (v : U256) : (s.setRes v).buf = s.buf := rfl
@[simp] theorem State.setRes_hostOps (s : State) (v : U256) : (s.setRes v).hostOps = s.hostOps := rfl
@[simp] theorem State.setRes_replies (s : State) (v : U256) : (s.setRes v).replies = s.replies := rfl

@[simp] theorem State.setRes2_config (s : State) (v : U256) : (s.setRes2 v).config = s.config := rfl
@[simp] theorem State.setRes2_opa (s : State) (v : U256) : (s.setRes2 v).opa = s.opa := rfl
@[simp] theorem State.setRes2_opb (s : State) (v : U256) : (s.setRes2 v).opb = s.opb := rfl
@[simp] theorem State.setRes2_res (s : State) (v : U256) : (s.setRes2 v).res = s.res := rfl
@[simp] theorem State.setRes2_res2 (s : State) (v : U256) : (s.setRes2 v).res2 = Reg256.full v := rfl
@[simp] theorem State.setRes2_cnt (s : State) (v : U256) : (s.setRes2 v).cnt = s.cnt := rfl
@[simp] theorem State.setRes2_len (s : State) (v : U256) : (s.setRes2 v).len = s.len := rfl
@[simp] theorem State.setRes2_status (s : State) (v : U256) : (s.setRes2 v).status = s.status := rfl
@[simp] theorem State.setRes2_fcmd (s : State) (v : U256) : (s.setRes2 v).fcmd = s.fcmd := rfl
@[simp] theorem State.setRes2_buf (s : State) (v : U256) : (s.setRes2 v).buf = s.buf := rfl
@[simp] theorem State.setRes2_hostOps (s : State) (v : U256) : (s.setRes2 v).hostOps = s.hostOps := rfl
@[simp] theorem State.setRes2_replies (s : State) (v : U256) : (s.setRes2 v).replies = s.replies := rfl

@[simp] theorem State.setCnt_config (s : State) (v : Word) : (s.setCnt v).config = s.config := rfl
@[simp] theorem State.setCnt_opa (s : State) (v : Word) : (s.setCnt v).opa = s.opa := rfl
@[simp] theorem State.setCnt_opb (s : State) (v : Word) : (s.setCnt v).opb = s.opb := rfl
@[simp] theorem State.setCnt_res (s : State) (v : Word) : (s.setCnt v).res = s.res := rfl
@[simp] theorem State.setCnt_res2 (s : State) (v : Word) : (s.setCnt v).res2 = s.res2 := rfl
@[simp] theorem State.setCnt_cnt (s : State) (v : Word) : (s.setCnt v).cnt = Reg32.full v := rfl
@[simp] theorem State.setCnt_len (s : State) (v : Word) : (s.setCnt v).len = s.len := rfl
@[simp] theorem State.setCnt_status (s : State) (v : Word) : (s.setCnt v).status = s.status := rfl
@[simp] theorem State.setCnt_fcmd (s : State) (v : Word) : (s.setCnt v).fcmd = s.fcmd := rfl
@[simp] theorem State.setCnt_buf (s : State) (v : Word) : (s.setCnt v).buf = s.buf := rfl
@[simp] theorem State.setCnt_hostOps (s : State) (v : Word) : (s.setCnt v).hostOps = s.hostOps := rfl
@[simp] theorem State.setCnt_replies (s : State) (v : Word) : (s.setCnt v).replies = s.replies := rfl

@[simp] theorem State.setLen_config (s : State) (v : Word) : (s.setLen v).config = s.config := rfl
@[simp] theorem State.setLen_opa (s : State) (v : Word) : (s.setLen v).opa = s.opa := rfl
@[simp] theorem State.setLen_opb (s : State) (v : Word) : (s.setLen v).opb = s.opb := rfl
@[simp] theorem State.setLen_res (s : State) (v : Word) : (s.setLen v).res = s.res := rfl
@[simp] theorem State.setLen_res2 (s : State) (v : Word) : (s.setLen v).res2 = s.res2 := rfl
@[simp] theorem State.setLen_cnt (s : State) (v : Word) : (s.setLen v).cnt = s.cnt := rfl
@[simp] theorem State.setLen_len (s : State) (v : Word) : (s.setLen v).len = (v.extractLsb' 0 10).setWidth 32 := rfl
@[simp] theorem State.setLen_status (s : State) (v : Word) : (s.setLen v).status = s.status := rfl
@[simp] theorem State.setLen_fcmd (s : State) (v : Word) : (s.setLen v).fcmd = s.fcmd := rfl
@[simp] theorem State.setLen_buf (s : State) (v : Word) : (s.setLen v).buf = s.buf := rfl
@[simp] theorem State.setLen_hostOps (s : State) (v : Word) : (s.setLen v).hostOps = s.hostOps := rfl
@[simp] theorem State.setLen_replies (s : State) (v : Word) : (s.setLen v).replies = s.replies := rfl

@[simp] theorem State.setStatus_config (s : State) (v : Word) : (s.setStatus v).config = s.config := rfl
@[simp] theorem State.setStatus_opa (s : State) (v : Word) : (s.setStatus v).opa = s.opa := rfl
@[simp] theorem State.setStatus_opb (s : State) (v : Word) : (s.setStatus v).opb = s.opb := rfl
@[simp] theorem State.setStatus_res (s : State) (v : Word) : (s.setStatus v).res = s.res := rfl
@[simp] theorem State.setStatus_res2 (s : State) (v : Word) : (s.setStatus v).res2 = s.res2 := rfl
@[simp] theorem State.setStatus_cnt (s : State) (v : Word) : (s.setStatus v).cnt = s.cnt := rfl
@[simp] theorem State.setStatus_len (s : State) (v : Word) : (s.setStatus v).len = s.len := rfl
@[simp] theorem State.setStatus_status (s : State) (v : Word) : (s.setStatus v).status = v := rfl
@[simp] theorem State.setStatus_fcmd (s : State) (v : Word) : (s.setStatus v).fcmd = s.fcmd := rfl
@[simp] theorem State.setStatus_buf (s : State) (v : Word) : (s.setStatus v).buf = s.buf := rfl
@[simp] theorem State.setStatus_hostOps (s : State) (v : Word) : (s.setStatus v).hostOps = s.hostOps := rfl
@[simp] theorem State.setStatus_replies (s : State) (v : Word) : (s.setStatus v).replies = s.replies := rfl

@[simp] theorem State.setFcmd_config (s : State) (v : Word) : (s.setFcmd v).config = s.config := rfl
@[simp] theorem State.setFcmd_opa (s : State) (v : Word) : (s.setFcmd v).opa = s.opa := rfl
@[simp] theorem State.setFcmd_opb (s : State) (v : Word) : (s.setFcmd v).opb = s.opb := rfl
@[simp] theorem State.setFcmd_res (s : State) (v : Word) : (s.setFcmd v).res = s.res := rfl
@[simp] theorem State.setFcmd_res2 (s : State) (v : Word) : (s.setFcmd v).res2 = s.res2 := rfl
@[simp] theorem State.setFcmd_cnt (s : State) (v : Word) : (s.setFcmd v).cnt = s.cnt := rfl
@[simp] theorem State.setFcmd_len (s : State) (v : Word) : (s.setFcmd v).len = s.len := rfl
@[simp] theorem State.setFcmd_status (s : State) (v : Word) : (s.setFcmd v).status = s.status := rfl
@[simp] theorem State.setFcmd_fcmd (s : State) (v : Word) : (s.setFcmd v).fcmd = v := rfl
@[simp] theorem State.setFcmd_buf (s : State) (v : Word) : (s.setFcmd v).buf = s.buf := rfl
@[simp] theorem State.setFcmd_hostOps (s : State) (v : Word) : (s.setFcmd v).hostOps = s.hostOps := rfl
@[simp] theorem State.setFcmd_replies (s : State) (v : Word) : (s.setFcmd v).replies = s.replies := rfl

@[simp] theorem State.setBuf_config (s : State) (m : List Host.Cell) : (s.setBuf m).config = s.config := rfl
@[simp] theorem State.setBuf_opa (s : State) (m : List Host.Cell) : (s.setBuf m).opa = s.opa := rfl
@[simp] theorem State.setBuf_opb (s : State) (m : List Host.Cell) : (s.setBuf m).opb = s.opb := rfl
@[simp] theorem State.setBuf_res (s : State) (m : List Host.Cell) : (s.setBuf m).res = s.res := rfl
@[simp] theorem State.setBuf_res2 (s : State) (m : List Host.Cell) : (s.setBuf m).res2 = s.res2 := rfl
@[simp] theorem State.setBuf_cnt (s : State) (m : List Host.Cell) : (s.setBuf m).cnt = s.cnt := rfl
@[simp] theorem State.setBuf_len (s : State) (m : List Host.Cell) : (s.setBuf m).len = s.len := rfl
@[simp] theorem State.setBuf_status (s : State) (m : List Host.Cell) : (s.setBuf m).status = s.status := rfl
@[simp] theorem State.setBuf_fcmd (s : State) (m : List Host.Cell) : (s.setBuf m).fcmd = s.fcmd := rfl
@[simp] theorem State.setBuf_buf (s : State) (m : List Host.Cell) : (s.setBuf m).buf = m := rfl
@[simp] theorem State.setBuf_hostOps (s : State) (m : List Host.Cell) : (s.setBuf m).hostOps = s.hostOps := rfl
@[simp] theorem State.setBuf_replies (s : State) (m : List Host.Cell) : (s.setBuf m).replies = s.replies := rfl

@[simp] theorem State.setHostOps_config (s : State) (ops : List HostOp) : (s.setHostOps ops).config = s.config := rfl
@[simp] theorem State.setHostOps_opa (s : State) (ops : List HostOp) : (s.setHostOps ops).opa = s.opa := rfl
@[simp] theorem State.setHostOps_opb (s : State) (ops : List HostOp) : (s.setHostOps ops).opb = s.opb := rfl
@[simp] theorem State.setHostOps_res (s : State) (ops : List HostOp) : (s.setHostOps ops).res = s.res := rfl
@[simp] theorem State.setHostOps_res2 (s : State) (ops : List HostOp) : (s.setHostOps ops).res2 = s.res2 := rfl
@[simp] theorem State.setHostOps_cnt (s : State) (ops : List HostOp) : (s.setHostOps ops).cnt = s.cnt := rfl
@[simp] theorem State.setHostOps_len (s : State) (ops : List HostOp) : (s.setHostOps ops).len = s.len := rfl
@[simp] theorem State.setHostOps_status (s : State) (ops : List HostOp) : (s.setHostOps ops).status = s.status := rfl
@[simp] theorem State.setHostOps_fcmd (s : State) (ops : List HostOp) : (s.setHostOps ops).fcmd = s.fcmd := rfl
@[simp] theorem State.setHostOps_buf (s : State) (ops : List HostOp) : (s.setHostOps ops).buf = s.buf := rfl
@[simp] theorem State.setHostOps_hostOps (s : State) (ops : List HostOp) : (s.setHostOps ops).hostOps = ops := rfl
@[simp] theorem State.setHostOps_replies (s : State) (ops : List HostOp) : (s.setHostOps ops).replies = s.replies := rfl

@[simp] theorem State.addReply_config (s : State) (r : Reply) : (s.addReply r).config = s.config := rfl
@[simp] theorem State.addReply_opa (s : State) (r : Reply) : (s.addReply r).opa = s.opa := rfl
@[simp] theorem State.addReply_opb (s : State) (r : Reply) : (s.addReply r).opb = s.opb := rfl
@[simp] theorem State.addReply_res (s : State) (r : Reply) : (s.addReply r).res = s.res := rfl
@[simp] theorem State.addReply_res2 (s : State) (r : Reply) : (s.addReply r).res2 = s.res2 := rfl
@[simp] theorem State.addReply_cnt (s : State) (r : Reply) : (s.addReply r).cnt = s.cnt := rfl
@[simp] theorem State.addReply_len (s : State) (r : Reply) : (s.addReply r).len = s.len := rfl
@[simp] theorem State.addReply_status (s : State) (r : Reply) : (s.addReply r).status = s.status := rfl
@[simp] theorem State.addReply_fcmd (s : State) (r : Reply) : (s.addReply r).fcmd = s.fcmd := rfl
@[simp] theorem State.addReply_buf (s : State) (r : Reply) : (s.addReply r).buf = s.buf := rfl
@[simp] theorem State.addReply_hostOps (s : State) (r : Reply) : (s.addReply r).hostOps = s.hostOps := rfl
@[simp] theorem State.addReply_replies (s : State) (r : Reply) : (s.addReply r).replies = r :: s.replies := rfl

@[simp] theorem State.setOpaWord_config (s : State) (k : Fin 8) (w : Word) : (s.setOpaWord k w).config = s.config := rfl
@[simp] theorem State.setOpaWord_opa (s : State) (k : Fin 8) (w : Word) : (s.setOpaWord k w).opa = s.opa.putWord k w := rfl
@[simp] theorem State.setOpaWord_opb (s : State) (k : Fin 8) (w : Word) : (s.setOpaWord k w).opb = s.opb := rfl
@[simp] theorem State.setOpaWord_res (s : State) (k : Fin 8) (w : Word) : (s.setOpaWord k w).res = s.res := rfl
@[simp] theorem State.setOpaWord_res2 (s : State) (k : Fin 8) (w : Word) : (s.setOpaWord k w).res2 = s.res2 := rfl
@[simp] theorem State.setOpaWord_cnt (s : State) (k : Fin 8) (w : Word) : (s.setOpaWord k w).cnt = s.cnt := rfl
@[simp] theorem State.setOpaWord_len (s : State) (k : Fin 8) (w : Word) : (s.setOpaWord k w).len = s.len := rfl
@[simp] theorem State.setOpaWord_status (s : State) (k : Fin 8) (w : Word) : (s.setOpaWord k w).status = s.status := rfl
@[simp] theorem State.setOpaWord_fcmd (s : State) (k : Fin 8) (w : Word) : (s.setOpaWord k w).fcmd = s.fcmd := rfl
@[simp] theorem State.setOpaWord_buf (s : State) (k : Fin 8) (w : Word) : (s.setOpaWord k w).buf = s.buf := rfl
@[simp] theorem State.setOpaWord_hostOps (s : State) (k : Fin 8) (w : Word) : (s.setOpaWord k w).hostOps = s.hostOps := rfl
@[simp] theorem State.setOpaWord_replies (s : State) (k : Fin 8) (w : Word) : (s.setOpaWord k w).replies = s.replies := rfl

@[simp] theorem State.setOpbWord_config (s : State) (k : Fin 8) (w : Word) : (s.setOpbWord k w).config = s.config := rfl
@[simp] theorem State.setOpbWord_opa (s : State) (k : Fin 8) (w : Word) : (s.setOpbWord k w).opa = s.opa := rfl
@[simp] theorem State.setOpbWord_opb (s : State) (k : Fin 8) (w : Word) : (s.setOpbWord k w).opb = s.opb.putWord k w := rfl
@[simp] theorem State.setOpbWord_res (s : State) (k : Fin 8) (w : Word) : (s.setOpbWord k w).res = s.res := rfl
@[simp] theorem State.setOpbWord_res2 (s : State) (k : Fin 8) (w : Word) : (s.setOpbWord k w).res2 = s.res2 := rfl
@[simp] theorem State.setOpbWord_cnt (s : State) (k : Fin 8) (w : Word) : (s.setOpbWord k w).cnt = s.cnt := rfl
@[simp] theorem State.setOpbWord_len (s : State) (k : Fin 8) (w : Word) : (s.setOpbWord k w).len = s.len := rfl
@[simp] theorem State.setOpbWord_status (s : State) (k : Fin 8) (w : Word) : (s.setOpbWord k w).status = s.status := rfl
@[simp] theorem State.setOpbWord_fcmd (s : State) (k : Fin 8) (w : Word) : (s.setOpbWord k w).fcmd = s.fcmd := rfl
@[simp] theorem State.setOpbWord_buf (s : State) (k : Fin 8) (w : Word) : (s.setOpbWord k w).buf = s.buf := rfl
@[simp] theorem State.setOpbWord_hostOps (s : State) (k : Fin 8) (w : Word) : (s.setOpbWord k w).hostOps = s.hostOps := rfl
@[simp] theorem State.setOpbWord_replies (s : State) (k : Fin 8) (w : Word) : (s.setOpbWord k w).replies = s.replies := rfl

@[simp] theorem State.setOvf_config (s : State) (b : Bool) : (s.setOvf b).config = s.config := rfl
@[simp] theorem State.setOvf_opa (s : State) (b : Bool) : (s.setOvf b).opa = s.opa := rfl
@[simp] theorem State.setOvf_opb (s : State) (b : Bool) : (s.setOvf b).opb = s.opb := rfl
@[simp] theorem State.setOvf_res (s : State) (b : Bool) : (s.setOvf b).res = s.res := rfl
@[simp] theorem State.setOvf_res2 (s : State) (b : Bool) : (s.setOvf b).res2 = s.res2 := rfl
@[simp] theorem State.setOvf_cnt (s : State) (b : Bool) : (s.setOvf b).cnt = s.cnt := rfl
@[simp] theorem State.setOvf_len (s : State) (b : Bool) : (s.setOvf b).len = s.len := rfl
@[simp] theorem State.setOvf_status (s : State) (b : Bool) : (s.setOvf b).status = withOvf b s.status := rfl
@[simp] theorem State.setOvf_fcmd (s : State) (b : Bool) : (s.setOvf b).fcmd = s.fcmd := rfl
@[simp] theorem State.setOvf_buf (s : State) (b : Bool) : (s.setOvf b).buf = s.buf := rfl
@[simp] theorem State.setOvf_hostOps (s : State) (b : Bool) : (s.setOvf b).hostOps = s.hostOps := rfl
@[simp] theorem State.setOvf_replies (s : State) (b : Bool) : (s.setOvf b).replies = s.replies := rfl

@[simp] theorem State.setNeg_config (s : State) (b : Bool) : (s.setNeg b).config = s.config := rfl
@[simp] theorem State.setNeg_opa (s : State) (b : Bool) : (s.setNeg b).opa = s.opa := rfl
@[simp] theorem State.setNeg_opb (s : State) (b : Bool) : (s.setNeg b).opb = s.opb := rfl
@[simp] theorem State.setNeg_res (s : State) (b : Bool) : (s.setNeg b).res = s.res := rfl
@[simp] theorem State.setNeg_res2 (s : State) (b : Bool) : (s.setNeg b).res2 = s.res2 := rfl
@[simp] theorem State.setNeg_cnt (s : State) (b : Bool) : (s.setNeg b).cnt = s.cnt := rfl
@[simp] theorem State.setNeg_len (s : State) (b : Bool) : (s.setNeg b).len = s.len := rfl
@[simp] theorem State.setNeg_status (s : State) (b : Bool) : (s.setNeg b).status = withNeg b s.status := rfl
@[simp] theorem State.setNeg_fcmd (s : State) (b : Bool) : (s.setNeg b).fcmd = s.fcmd := rfl
@[simp] theorem State.setNeg_buf (s : State) (b : Bool) : (s.setNeg b).buf = s.buf := rfl
@[simp] theorem State.setNeg_hostOps (s : State) (b : Bool) : (s.setNeg b).hostOps = s.hostOps := rfl
@[simp] theorem State.setNeg_replies (s : State) (b : Bool) : (s.setNeg b).replies = s.replies := rfl

@[simp] theorem State.setErrOk_config (s : State) : (s.setErrOk).config = s.config := rfl
@[simp] theorem State.setErrOk_opa (s : State) : (s.setErrOk).opa = s.opa := rfl
@[simp] theorem State.setErrOk_opb (s : State) : (s.setErrOk).opb = s.opb := rfl
@[simp] theorem State.setErrOk_res (s : State) : (s.setErrOk).res = s.res := rfl
@[simp] theorem State.setErrOk_res2 (s : State) : (s.setErrOk).res2 = s.res2 := rfl
@[simp] theorem State.setErrOk_cnt (s : State) : (s.setErrOk).cnt = s.cnt := rfl
@[simp] theorem State.setErrOk_len (s : State) : (s.setErrOk).len = s.len := rfl
@[simp] theorem State.setErrOk_status (s : State) : (s.setErrOk).status = withErr errOk s.status := rfl
@[simp] theorem State.setErrOk_fcmd (s : State) : (s.setErrOk).fcmd = s.fcmd := rfl
@[simp] theorem State.setErrOk_buf (s : State) : (s.setErrOk).buf = s.buf := rfl
@[simp] theorem State.setErrOk_hostOps (s : State) : (s.setErrOk).hostOps = s.hostOps := rfl
@[simp] theorem State.setErrOk_replies (s : State) : (s.setErrOk).replies = s.replies := rfl

@[simp] theorem State.raiseFault_config (s : State) (cause : FaultCause) (word : Word) : (s.raiseFault cause word).config = s.config := rfl
@[simp] theorem State.raiseFault_opa (s : State) (cause : FaultCause) (word : Word) : (s.raiseFault cause word).opa = s.opa := rfl
@[simp] theorem State.raiseFault_opb (s : State) (cause : FaultCause) (word : Word) : (s.raiseFault cause word).opb = s.opb := rfl
@[simp] theorem State.raiseFault_res (s : State) (cause : FaultCause) (word : Word) : (s.raiseFault cause word).res = s.res := rfl
@[simp] theorem State.raiseFault_res2 (s : State) (cause : FaultCause) (word : Word) : (s.raiseFault cause word).res2 = s.res2 := rfl
@[simp] theorem State.raiseFault_cnt (s : State) (cause : FaultCause) (word : Word) : (s.raiseFault cause word).cnt = s.cnt := rfl
@[simp] theorem State.raiseFault_len (s : State) (cause : FaultCause) (word : Word) : (s.raiseFault cause word).len = s.len := rfl
@[simp] theorem State.raiseFault_status (s : State) (cause : FaultCause) (word : Word) : (s.raiseFault cause word).status = withFcause cause.code (withFault s.status) := rfl
@[simp] theorem State.raiseFault_fcmd (s : State) (cause : FaultCause) (word : Word) : (s.raiseFault cause word).fcmd = word := rfl
@[simp] theorem State.raiseFault_buf (s : State) (cause : FaultCause) (word : Word) : (s.raiseFault cause word).buf = s.buf := rfl
@[simp] theorem State.raiseFault_hostOps (s : State) (cause : FaultCause) (word : Word) : (s.raiseFault cause word).hostOps = s.hostOps := rfl
@[simp] theorem State.raiseFault_replies (s : State) (cause : FaultCause) (word : Word) : (s.raiseFault cause word).replies = s.replies := rfl

@[simp] theorem State.putString_config (s : State) (bs : List Byte) : (s.putString bs).config = s.config := rfl
@[simp] theorem State.putString_opa (s : State) (bs : List Byte) : (s.putString bs).opa = s.opa := rfl
@[simp] theorem State.putString_opb (s : State) (bs : List Byte) : (s.putString bs).opb = s.opb := rfl
@[simp] theorem State.putString_res (s : State) (bs : List Byte) : (s.putString bs).res = s.res := rfl
@[simp] theorem State.putString_res2 (s : State) (bs : List Byte) : (s.putString bs).res2 = s.res2 := rfl
@[simp] theorem State.putString_cnt (s : State) (bs : List Byte) : (s.putString bs).cnt = s.cnt := rfl
@[simp] theorem State.putString_len (s : State) (bs : List Byte) : (s.putString bs).len = ((BitVec.ofNat 32 bs.length).extractLsb' 0 10).setWidth 32 := rfl
@[simp] theorem State.putString_status (s : State) (bs : List Byte) : (s.putString bs).status = s.status := rfl
@[simp] theorem State.putString_fcmd (s : State) (bs : List Byte) : (s.putString bs).fcmd = s.fcmd := rfl
@[simp] theorem State.putString_buf (s : State) (bs : List Byte) : (s.putString bs).buf = memWrite s.buf 0 bs := rfl
@[simp] theorem State.putString_hostOps (s : State) (bs : List Byte) : (s.putString bs).hostOps = s.hostOps := rfl
@[simp] theorem State.putString_replies (s : State) (bs : List Byte) : (s.putString bs).replies = s.replies := rfl

@[simp] theorem State.putDigits_config (s : State) (neg : Bool) (bs : List Byte) : (s.putDigits neg bs).config = s.config := rfl
@[simp] theorem State.putDigits_opa (s : State) (neg : Bool) (bs : List Byte) : (s.putDigits neg bs).opa = s.opa := rfl
@[simp] theorem State.putDigits_opb (s : State) (neg : Bool) (bs : List Byte) : (s.putDigits neg bs).opb = s.opb := rfl
@[simp] theorem State.putDigits_res (s : State) (neg : Bool) (bs : List Byte) : (s.putDigits neg bs).res = s.res := rfl
@[simp] theorem State.putDigits_res2 (s : State) (neg : Bool) (bs : List Byte) : (s.putDigits neg bs).res2 = s.res2 := rfl
@[simp] theorem State.putDigits_cnt (s : State) (neg : Bool) (bs : List Byte) : (s.putDigits neg bs).cnt = s.cnt := rfl
@[simp] theorem State.putDigits_len (s : State) (neg : Bool) (bs : List Byte) : (s.putDigits neg bs).len = ((BitVec.ofNat 32 bs.length).extractLsb' 0 10).setWidth 32 := rfl
@[simp] theorem State.putDigits_status (s : State) (neg : Bool) (bs : List Byte) : (s.putDigits neg bs).status = withNeg neg s.status := rfl
@[simp] theorem State.putDigits_fcmd (s : State) (neg : Bool) (bs : List Byte) : (s.putDigits neg bs).fcmd = s.fcmd := rfl
@[simp] theorem State.putDigits_buf (s : State) (neg : Bool) (bs : List Byte) : (s.putDigits neg bs).buf = memWrite s.buf 0 bs := rfl
@[simp] theorem State.putDigits_hostOps (s : State) (neg : Bool) (bs : List Byte) : (s.putDigits neg bs).hostOps = s.hostOps := rfl
@[simp] theorem State.putDigits_replies (s : State) (neg : Bool) (bs : List Byte) : (s.putDigits neg bs).replies = s.replies := rfl

@[simp] theorem State.resetInput_config (s : State) : s.resetInput.config = s.config := rfl
@[simp] theorem State.resetInput_opa (s : State) : s.resetInput.opa = Reg256.unwritten := rfl
@[simp] theorem State.resetInput_opb (s : State) : s.resetInput.opb = Reg256.unwritten := rfl
@[simp] theorem State.resetInput_res (s : State) : s.resetInput.res = Reg256.unwritten := rfl
@[simp] theorem State.resetInput_res2 (s : State) : s.resetInput.res2 = Reg256.unwritten := rfl
@[simp] theorem State.resetInput_cnt (s : State) : s.resetInput.cnt = Reg32.unwritten := rfl
@[simp] theorem State.resetInput_len (s : State) : s.resetInput.len = 0 := rfl
@[simp] theorem State.resetInput_status (s : State) : s.resetInput.status = 0 := rfl
@[simp] theorem State.resetInput_fcmd (s : State) : s.resetInput.fcmd = 0 := rfl
@[simp] theorem State.resetInput_buf (s : State) : s.resetInput.buf = [] := rfl
@[simp] theorem State.resetInput_hostOps (s : State) : s.resetInput.hostOps = s.hostOps := rfl
@[simp] theorem State.resetInput_replies (s : State) : s.resetInput.replies = s.replies := rfl

@[simp] theorem State.setDst_config (s : State) (dst : Dst) (v : U256) : (s.setDst dst v).config = s.config := by cases dst <;> rfl
@[simp] theorem State.setDst_opa_opa (s : State) (v : U256) : (s.setDst .opa v).opa = Reg256.full v := rfl
@[simp] theorem State.setDst_res_opa (s : State) (v : U256) : (s.setDst .res v).opa = s.opa := rfl
@[simp] theorem State.setDst_opb (s : State) (dst : Dst) (v : U256) : (s.setDst dst v).opb = s.opb := by cases dst <;> rfl
@[simp] theorem State.setDst_opa_res (s : State) (v : U256) : (s.setDst .opa v).res = s.res := rfl
@[simp] theorem State.setDst_res_res (s : State) (v : U256) : (s.setDst .res v).res = Reg256.full v := rfl
@[simp] theorem State.setDst_res2 (s : State) (dst : Dst) (v : U256) : (s.setDst dst v).res2 = s.res2 := by cases dst <;> rfl
@[simp] theorem State.setDst_cnt (s : State) (dst : Dst) (v : U256) : (s.setDst dst v).cnt = s.cnt := by cases dst <;> rfl
@[simp] theorem State.setDst_len (s : State) (dst : Dst) (v : U256) : (s.setDst dst v).len = s.len := by cases dst <;> rfl
@[simp] theorem State.setDst_status (s : State) (dst : Dst) (v : U256) : (s.setDst dst v).status = s.status := by cases dst <;> rfl
@[simp] theorem State.setDst_fcmd (s : State) (dst : Dst) (v : U256) : (s.setDst dst v).fcmd = s.fcmd := by cases dst <;> rfl
@[simp] theorem State.setDst_buf (s : State) (dst : Dst) (v : U256) : (s.setDst dst v).buf = s.buf := by cases dst <;> rfl
@[simp] theorem State.setDst_hostOps (s : State) (dst : Dst) (v : U256) : (s.setDst dst v).hostOps = s.hostOps := by cases dst <;> rfl
@[simp] theorem State.setDst_replies (s : State) (dst : Dst) (v : U256) : (s.setDst dst v).replies = s.replies := by cases dst <;> rfl

@[simp] theorem State.setQuotRem_config (s : State) (dst : Dst) (q r : U256) : (s.setQuotRem dst q r).config = s.config := by cases dst <;> rfl
@[simp] theorem State.setQuotRem_opa (s : State) (dst : Dst) (q r : U256) : (s.setQuotRem dst q r).opa = (s.setDst dst q).opa := rfl
@[simp] theorem State.setQuotRem_opb (s : State) (dst : Dst) (q r : U256) : (s.setQuotRem dst q r).opb = s.opb := by cases dst <;> rfl
@[simp] theorem State.setQuotRem_res (s : State) (dst : Dst) (q r : U256) : (s.setQuotRem dst q r).res = (s.setDst dst q).res := rfl
@[simp] theorem State.setQuotRem_res2 (s : State) (dst : Dst) (q r : U256) : (s.setQuotRem dst q r).res2 = Reg256.full r := rfl
@[simp] theorem State.setQuotRem_cnt (s : State) (dst : Dst) (q r : U256) : (s.setQuotRem dst q r).cnt = s.cnt := by cases dst <;> rfl
@[simp] theorem State.setQuotRem_len (s : State) (dst : Dst) (q r : U256) : (s.setQuotRem dst q r).len = s.len := by cases dst <;> rfl
@[simp] theorem State.setQuotRem_status (s : State) (dst : Dst) (q r : U256) : (s.setQuotRem dst q r).status = s.status := by cases dst <;> rfl
@[simp] theorem State.setQuotRem_fcmd (s : State) (dst : Dst) (q r : U256) : (s.setQuotRem dst q r).fcmd = s.fcmd := by cases dst <;> rfl
@[simp] theorem State.setQuotRem_buf (s : State) (dst : Dst) (q r : U256) : (s.setQuotRem dst q r).buf = s.buf := by cases dst <;> rfl
@[simp] theorem State.setQuotRem_hostOps (s : State) (dst : Dst) (q r : U256) : (s.setQuotRem dst q r).hostOps = s.hostOps := by cases dst <;> rfl
@[simp] theorem State.setQuotRem_replies (s : State) (dst : Dst) (q r : U256) : (s.setQuotRem dst q r).replies = s.replies := by cases dst <;> rfl

end Sys2Proof.Machine
end

