-- ==== Sys2Proof/Laws/Ops.lean ====
section
/-! SUPPORT. For each shared operation, once: what it answers where its inputs are written, that it stops
otherwise, and every next state it can give. -/

namespace Sys2Proof.Machine

/-! ### Registers -/

@[simp] theorem Reg256.value_full (v : U256) : (Reg256.full v).value = some v := by simp [value, full]
@[simp] theorem Reg32.value_full (v : Word) : (Reg32.full v).value = some v := rfl
@[simp] theorem Reg256.value_unwritten : Reg256.unwritten.value = none := by decide
@[simp] theorem Reg32.value_unwritten : Reg32.unwritten.value = none := rfl

/-- A register has a value exactly when its eight words are written; the value is its pattern. -/
theorem Reg256.value_some (r : Reg256) (v : U256) :
    r.value = some v ↔ r.written = Vector.replicate 8 true ∧ r.bits = v := by
  unfold value
  split_ifs with h <;> simp [h]

theorem Reg32.value_some (r : Reg32) (v : Word) : r.value = some v ↔ r.written = true ∧ r.bits = v := by
  unfold value
  split_ifs with h <;> simp [h]

/-- A register with a value is one whole write of it. -/
theorem Reg256.eq_full_of_value (r : Reg256) (v : U256) (h : r.value = some v) : r = Reg256.full v := by
  obtain ⟨h1, h2⟩ := (r.value_some v).1 h
  cases r; simp_all [full]

/-- A word read back after it was written, and every other word as before. -/
theorem Reg256.word_putWord (r : Reg256) (j k : Fin 8) (w : Word) :
    (r.putWord k w).word j = if j = k then some w else r.word j := by
  unfold word putWord
  by_cases h : j = k
  · subst h; simp [wordAt_putBits_same]
  · have hv : (k : Nat) ≠ j := fun e => h (Fin.ext e.symm)
    simp [h, hv, wordAt_putBits_other _ _ _ _ h]

/-- Each word of a value written whole. -/
@[simp] theorem Reg256.word_full (v : U256) (k : Fin 8) : (Reg256.full v).word k = some (wordAt v k) := by
  simp [word, full]

/-! ### Reads by a command -/

@[simp] theorem withValue_some {α : Type} (x : α) (k : α → Result) : withValue (some x) k = k x := rfl
@[simp] theorem withValue_none {α : Type} (k : α → Result) : withValue none k = .fault .unwrittenRead := rfl

/-- A read goes on exactly where there is a value. -/
theorem withValue_next {α : Type} (v : Option α) (k : α → Result) (t : State) :
    withValue v k = .next t ↔ ∃ x, v = some x ∧ k x = .next t := by
  cases v <;> simp

theorem withOpa_next (s : State) (k : U256 → Result) (t : State) :
    withOpa s k = .next t ↔ ∃ a, s.opa.value = some a ∧ k a = .next t := withValue_next _ _ _

theorem withOperands_next (s : State) (k : U256 → U256 → Result) (t : State) :
    withOperands s k = .next t ↔
      ∃ a b, s.opa.value = some a ∧ s.opb.value = some b ∧ k a b = .next t := by
  simp only [withOperands, withValue_next]
  exact ⟨fun ⟨a, ha, b, hb, h⟩ => ⟨a, b, ha, hb, h⟩, fun ⟨a, b, ha, hb, h⟩ => ⟨a, ha, b, hb, h⟩⟩

theorem withOpaCnt_next (s : State) (k : U256 → Nat → Result) (t : State) :
    withOpaCnt s k = .next t ↔
      ∃ a n, s.opa.value = some a ∧ s.cnt.value = some n ∧ k a n.toNat = .next t := by
  simp only [withOpaCnt, withValue_next]
  exact ⟨fun ⟨a, ha, b, hb, h⟩ => ⟨a, b, ha, hb, h⟩, fun ⟨a, b, ha, hb, h⟩ => ⟨a, ha, b, hb, h⟩⟩

theorem withBuf_next (s : State) (n : Nat) (k : List Byte → Result) (t : State) :
    withBuf s n k = .next t ↔ ∃ bs, memRead s.buf 0 n = some bs ∧ k bs = .next t := withValue_next _ _ _

/-! ### Faults and errors -/

/-- Fault entry gives one next state. -/
theorem takeFault_next (cause : FaultCause) (i : Instr) (s t : State) :
    takeFault cause i s = .next t ↔ t = s.raiseFault cause (encode i) := by
  simp [takeFault, eq_comm]

/-- A reported error gives one next state. -/
theorem reportErr_next (kind : ErrKind) (s t : State) :
    reportErr kind s = .next t ↔ t = s.setStatus (withErr kind.code s.status) := by
  simp [reportErr, eq_comm]

@[simp] theorem State.raiseFault_fault (s : State) (cause : FaultCause) (word : Word) :
    statusFault (s.raiseFault cause word).status = true := by simp

@[simp] theorem State.raiseFault_fcause (s : State) (cause : FaultCause) (word : Word) :
    statusFcause (s.raiseFault cause word).status = cause.code := by simp

/-! ### The operand forms -/

/-- A wrapping command answers where both operands are written, with the result in its destination. -/
theorem binaryOp_next (f : U256 → U256 → U256) (dst : Dst) (s t : State) :
    binaryOp f dst s = .next t ↔
      ∃ a b, s.opa.value = some a ∧ s.opb.value = some b ∧ t = s.setDst dst (f a b) := by
  simp only [binaryOp, withOperands_next, Host.Outcome.next.injEq, @eq_comm _ t]

/-- A checked command answers where both operands are written, with the result and OVF. -/
theorem checkedOp_next (f : U256 → U256 → U256) (ovf : U256 → U256 → U256 → Bool) (dst : Dst) (s t : State) :
    checkedOp f ovf dst s = .next t ↔
      ∃ a b, s.opa.value = some a ∧ s.opb.value = some b ∧
        t = (s.setDst dst (f a b)).setOvf (ovf a b (f a b)) := by
  simp only [checkedOp, withOperands_next, Host.Outcome.next.injEq, @eq_comm _ t]

/-- A command on OPA alone answers where OPA is written. -/
theorem unaryOp_next (f : U256 → U256) (dst : Dst) (s t : State) :
    unaryOp f dst s = .next t ↔ ∃ a, s.opa.value = some a ∧ t = s.setDst dst (f a) := by
  simp only [unaryOp, withOpa_next, Host.Outcome.next.injEq, @eq_comm _ t]

/-- A shift answers where OPA and CNT are written: the fault for a count of 256 or more, else the result. -/
theorem shiftOp_next (f : U256 → Nat → U256) (i : Instr) (dst : Dst) (s t : State) :
    shiftOp f i dst s = .next t ↔
      ∃ a n, s.opa.value = some a ∧ s.cnt.value = some n ∧
        t = if 256 ≤ n.toNat then s.raiseFault .shiftRange (encode i) else s.setDst dst (f a n.toNat) := by
  simp only [shiftOp, withOpaCnt_next]
  refine exists_congr fun a => exists_congr fun n => and_congr_right fun _ => and_congr_right fun _ => ?_
  split_ifs <;> simp [takeFault, eq_comm]

/-- A rotate answers where OPA and CNT are written: the fault for a count of 256 or more where `ROT_COUNT` is
fault, else the result for the count modulo 256. -/
theorem rotateOp_next (f : U256 → Nat → U256) (i : Instr) (dst : Dst) (s t : State) :
    rotateOp f i dst s = .next t ↔
      ∃ a n, s.opa.value = some a ∧ s.cnt.value = some n ∧
        t = if 256 ≤ n.toNat ∧ s.config.rotCount = .fault then s.raiseFault .shiftRange (encode i)
          else s.setDst dst (f a (n.toNat % 256)) := by
  simp only [rotateOp, withOpaCnt_next]
  refine exists_congr fun a => exists_congr fun n => and_congr_right fun _ => and_congr_right fun _ => ?_
  split_ifs <;> simp [takeFault, eq_comm]

/-- An encoder answers where OPA is written, with its string in BUF and LEN. -/
theorem encodeOp_next (f : U256 → List Byte) (s t : State) :
    encodeOp f s = .next t ↔ ∃ a, s.opa.value = some a ∧ t = s.putString (f a) := by
  simp only [encodeOp, withOpa_next, Host.Outcome.next.injEq, @eq_comm _ t]

/-- A fixed decoder answers where the first 32 bytes of BUF are written. -/
theorem decodeOp_next (f : List Byte → Nat) (dst : Dst) (s t : State) :
    decodeOp f dst s = .next t ↔ ∃ bs, memRead s.buf 0 32 = some bs ∧ t = s.setDst dst (wrap (f bs)) := by
  simp only [decodeOp, withBuf_next, Host.Outcome.next.injEq, @eq_comm _ t]

/-- A PARSE answers in four ways: LEN_RANGE, RADIX_RANGE, a reported error, or the value with ERR = OK; the last
two read the text. -/
theorem parseOp_next (signed : Bool) (i : Instr) (dst : Dst) (radix : BitVec 6) (s t : State)
    (h : parseOp signed i dst radix s = .next t) :
    (bufSize < s.len.toNat ∧ t = s.raiseFault .lenRange (encode i)) ∨
    (s.len.toNat ≤ bufSize ∧ ¬(2 ≤ radix.toNat ∧ radix.toNat ≤ 36) ∧
      t = s.raiseFault .radixRange (encode i)) ∨
    (s.len.toNat ≤ bufSize ∧ 2 ≤ radix.toNat ∧ radix.toNat ≤ 36 ∧
      ∃ text, memRead s.buf 0 s.len.toNat = some text ∧
        ((∃ kind, parseText signed radix.toNat text = .error kind ∧
            t = s.setStatus (withErr kind.code s.status)) ∨
          ∃ acc, parseText signed radix.toNat text = .ok acc ∧ t = (s.setDst dst (wrap acc)).setErrOk)) := by
  unfold parseOp at h
  split_ifs at h with h1 h2
  · exact .inl ⟨h1, (takeFault_next _ _ _ _).1 h⟩
  · refine .inr (.inr ⟨by omega, h2.1, h2.2, ?_⟩)
    obtain ⟨text, ht, h⟩ := (withBuf_next _ _ _ _).1 h
    refine ⟨text, ht, ?_⟩
    split at h
    · rename_i kind hk
      exact .inl ⟨kind, hk, (reportErr_next _ _ _).1 h⟩
    · rename_i acc ha
      exact .inr ⟨acc, ha, (Host.Outcome.next.inj h).symm⟩
  · exact .inr (.inl ⟨by omega, h2, (takeFault_next _ _ _ _).1 h⟩)

/-! ### Issuing a command and host reads -/

/-- A command word issued: ignored while FAULT = 1, ILLEGAL_COMMAND where it does not decode, else run. -/
theorem issue_cases (c : Word) (s : State) :
    (statusFault s.status = true ∧ issue c s = .next s) ∨
    (statusFault s.status = false ∧ (∃ e, decode c = .error e) ∧
      issue c s = .next (s.raiseFault .illegalCommand c)) ∨
    (statusFault s.status = false ∧ ∃ i, decode c = .ok i ∧ issue c s = exec i s) := by
  unfold issue
  by_cases hf : statusFault s.status = true
  · exact .inl ⟨hf, by simp [hf]⟩
  · rw [Bool.not_eq_true] at hf
    cases hd : decode c with
    | error e => exact .inr (.inl ⟨hf, ⟨e, rfl⟩, by simp [hf]⟩)
    | ok i => exact .inr (.inr ⟨hf, i, rfl, by simp [hf]⟩)

/-- A host read answers exactly where there is a value, and changes nothing but the replies. -/
theorem answer_next (s : State) (v : Option Reply) (t : State) :
    answer s v = .next t ↔ ∃ r, v = some r ∧ t = s.addReply r := by
  simp only [answer, withValue_next, Host.Outcome.next.injEq, @eq_comm _ t]

/-- A bus write: what each target does with it. -/
theorem writeTarget_next (s t : State) (w : Word) (target : Target) (h : writeTarget s w target = .next t) :
    (∃ k, target = .opa k ∧ t = s.setOpaWord k w) ∨ (∃ k, target = .opb k ∧ t = s.setOpbWord k w) ∨
    (target = .cnt ∧ t = s.setCnt w) ∨ (target = .len ∧ t = s.setLen w) ∨
    (target = .cmd ∧ issue w s = .next t) ∨
    (∃ i, target = .buf i ∧ t = s.setBuf (bufPutWord s.buf i w)) ∨ t = s := by
  cases target <;> simp_all [writeTarget, eq_comm]

end Sys2Proof.Machine
end

