-- ==== Sys2Proof/Laws/PerInstr.lean ====
section
/-! SUPPORT. Facts about commands as syntax, one lemma per constructor of `Instr`. -/

namespace Sys2Proof.Laws.EncodesRow

/-- The mask of the row a command stands in (30_encoding.md R89): OP and the reserved bits, and IP, UC and RADIX
where the row fixes them. -/
def mask (i : Instr) : Word :=
  match i.dst?, i.fmtFields?, i.parseRadix? with
  | _, some _, _ => 0xffc0fdff
  | _, _, some _ => 0xffc0feff
  | some _, none, none => 0xfffffeff
  | none, none, none => 0xffffffff

/-- The word of a command has its row's match bits under its row's mask (30_encoding.md R89). -/
def Statement (i : Instr) : Prop := encode i &&& mask i = i.opcode.setWidth 32

theorem add (dst : Dst) : Statement (.add dst) := by cases dst <;> unfold Statement <;> decide
theorem addcU (dst : Dst) : Statement (.addcU dst) := by cases dst <;> unfold Statement <;> decide
theorem addcS (dst : Dst) : Statement (.addcS dst) := by cases dst <;> unfold Statement <;> decide
theorem sub (dst : Dst) : Statement (.sub dst) := by cases dst <;> unfold Statement <;> decide
theorem subbU (dst : Dst) : Statement (.subbU dst) := by cases dst <;> unfold Statement <;> decide
theorem subbS (dst : Dst) : Statement (.subbS dst) := by cases dst <;> unfold Statement <;> decide
theorem mul (dst : Dst) : Statement (.mul dst) := by cases dst <;> unfold Statement <;> decide
theorem mulwU (dst : Dst) : Statement (.mulwU dst) := by cases dst <;> unfold Statement <;> decide
theorem mulwS (dst : Dst) : Statement (.mulwS dst) := by cases dst <;> unfold Statement <;> decide
theorem shl (dst : Dst) : Statement (.shl dst) := by cases dst <;> unfold Statement <;> decide
theorem shrU (dst : Dst) : Statement (.shrU dst) := by cases dst <;> unfold Statement <;> decide
theorem shrS (dst : Dst) : Statement (.shrS dst) := by cases dst <;> unfold Statement <;> decide
theorem rol (dst : Dst) : Statement (.rol dst) := by cases dst <;> unfold Statement <;> decide
theorem ror (dst : Dst) : Statement (.ror dst) := by cases dst <;> unfold Statement <;> decide
theorem clz (dst : Dst) : Statement (.clz dst) := by cases dst <;> unfold Statement <;> decide
theorem ctz (dst : Dst) : Statement (.ctz dst) := by cases dst <;> unfold Statement <;> decide
theorem divremU (dst : Dst) : Statement (.divremU dst) := by cases dst <;> unfold Statement <;> decide
theorem divremS (dst : Dst) : Statement (.divremS dst) := by cases dst <;> unfold Statement <;> decide
theorem fmtU (letters : DigitCase) (radix : BitVec 6) : Statement (.fmtU letters radix) := by
  cases letters <;> revert radix <;> unfold Statement <;> decide
theorem fmtS (letters : DigitCase) (radix : BitVec 6) : Statement (.fmtS letters radix) := by
  cases letters <;> revert radix <;> unfold Statement <;> decide
theorem parseU (dst : Dst) (radix : BitVec 6) : Statement (.parseU dst radix) := by
  cases dst <;> revert radix <;> unfold Statement <;> decide
theorem parseS (dst : Dst) (radix : BitVec 6) : Statement (.parseS dst radix) := by
  cases dst <;> revert radix <;> unfold Statement <;> decide
theorem tobe : Statement .tobe := by unfold Statement; decide
theorem tole : Statement .tole := by unfold Statement; decide
theorem frombe (dst : Dst) : Statement (.frombe dst) := by cases dst <;> unfold Statement <;> decide
theorem fromle (dst : Dst) : Statement (.fromle dst) := by cases dst <;> unfold Statement <;> decide
theorem tocompact : Statement .tocompact := by unfold Statement; decide
theorem fromcompact (dst : Dst) : Statement (.fromcompact dst) := by cases dst <;> unfold Statement <;> decide

end Sys2Proof.Laws.EncodesRow
end

