-- ==== Sys2Proof/Laws/Window.lean ====
section
/-! SUPPORT. The window: which access reaches which offset, and which offset names which target. -/

namespace Sys2Proof.Machine

/-- A 32-bit access at the bus address of an aligned offset of the window reaches that offset. -/
theorem windowOffset_busAddr (cfg : Config) (off : Nat) (h : off < 1024) (h4 : off % 4 = 0) :
    windowOffset cfg 32 (busAddr cfg off) = some off := by
  unfold windowOffset busAddr
  rw [if_pos (by refine ⟨rfl, ?_, ?_⟩ <;> omega)]
  congr 1; omega

/-- An access that reaches an offset is 32 bits wide, at the bus address of that aligned offset of the window. -/
theorem windowOffset_some (cfg : Config) (width addr off : Nat) (h : windowOffset cfg width addr = some off) :
    width = 32 ∧ addr = busAddr cfg off ∧ off % 4 = 0 ∧ off < 1024 := by
  unfold windowOffset at h
  split_ifs at h with g
  obtain ⟨hw, h4, hp⟩ := g
  rw [Option.some.injEq] at h
  unfold busAddr
  exact ⟨hw, by omega, by omega, by omega⟩

/-- The word an offset names within a 256-bit register that starts at a multiple of 32. -/
theorem wordIndex_add (base : Nat) (k : Fin 8) (h : base % 32 = 0) : wordIndex (base + 4 * k) = k := by
  apply Fin.ext; simp only [wordIndex]; omega

theorem targetOf_opa (k : Fin 8) : targetOf (0x000 + 4 * k) = .opa k := by
  rw [targetOf, if_pos (by omega), wordIndex_add _ _ (by decide)]

theorem targetOf_opb (k : Fin 8) : targetOf (0x020 + 4 * k) = .opb k := by
  rw [targetOf, if_neg (by omega), if_pos (by omega), wordIndex_add _ _ (by decide)]

theorem targetOf_res (k : Fin 8) : targetOf (0x040 + 4 * k) = .res k := by
  rw [targetOf, if_neg (by omega), if_neg (by omega), if_pos (by omega), wordIndex_add _ _ (by decide)]

theorem targetOf_res2 (k : Fin 8) : targetOf (0x060 + 4 * k) = .res2 k := by
  rw [targetOf, if_neg (by omega), if_neg (by omega), if_neg (by omega), if_pos (by omega),
    wordIndex_add _ _ (by decide)]

theorem targetOf_buf (j : Nat) : targetOf (0x200 + 4 * j) = .buf (4 * j) := by
  unfold targetOf
  split_ifs <;> first | omega | rw [Nat.add_sub_cancel_left]

theorem targetOf_reserved (off : Nat) (h1 : 0x094 ≤ off) (h2 : off < 0x200) : targetOf off = .reserved := by
  unfold targetOf
  split_ifs <;> first | omega | rfl

/-- STATUS stands at its own offset only. -/
theorem targetOf_status (off : Nat) (h : targetOf off = .status) : off = 0x088 := by
  unfold targetOf at h
  split_ifs at h
  assumption

/-- CMD stands at its own offset only. -/
theorem targetOf_cmd (off : Nat) (h : targetOf off = .cmd) : off = 0x08c := by
  unfold targetOf at h
  split_ifs at h
  assumption

/-- A command word issued by a bus write of CMD. -/
theorem perform_busWrite_cmd (s : State) (c : Word) :
    perform (.busWrite 32 (busAddr s.config 0x08c) c) s = issue c s := by
  simp only [perform, windowOffset_busAddr s.config 0x08c (by decide) (by decide)]
  rfl

end Sys2Proof.Machine
end

