-- ==== Sys2Proof/Tests/Slice0.lean ====
section
/-! SUPPORT. Tests. Expected values are those of the named vectors of spec/95_test_vectors.md, or of the rule named
beside them; then, for each statement with hypotheses, a state and operands that meet them. -/

open Sys2Proof Sys2Proof.Machine

namespace Sys2Proof.Tests

/-! ### Small states -/

/-- The reset state of a block built with other parameters. -/
def built (cfg : Config) : State := { State.reset with config := cfg }

/-- OPA and OPB written. -/
def operands (a b : U256) (cfg : Config := Config.standard) : State := ((built cfg).setOpa a).setOpb b

/-- OPA and CNT written. -/
def counted (a : U256) (n : Word) (cfg : Config := Config.standard) : State := ((built cfg).setOpa a).setCnt n

/-- Bytes in BUF from index 0 and their number in LEN. -/
def text (bs : List Byte) : State := (built Config.standard).putString bs

/-- A number in LEN, nothing in BUF. -/
def lengthOnly (n : Word) : State := (built Config.standard).setLen n

/-- The fault state of vector H11. -/
def faulted : State := (built Config.standard).raiseFault .illegalCommand 0xff

/-- The parameters at their other values. -/
def altConfig : Config where
  sdivMinNeg1 := .fault
  rotCount := .modulo
  signedRadixFmt := .signMagnitude
  compactZero := .oneZeroByte
  basePage := 5

/-- RES after a step that answers a next state with RES written. -/
def res (r : Result) : Option U256 := r.state?.bind fun t => t.res.value
def res2 (r : Result) : Option U256 := r.state?.bind fun t => t.res2.value
def opa (r : Result) : Option U256 := r.state?.bind fun t => t.opa.value
def status (r : Result) : Option Word := r.state?.map State.status
def fcmd (r : Result) : Option Word := r.state?.map State.fcmd

/-- The model fault a step ends on. -/
def faultOf (r : Result) : Option Fault := r.fault?

/-- The text left in BUF and LEN. -/
def textOf (r : Result) : Option (List Byte) := r.state?.bind fun t => memRead t.buf 0 t.len.toNat

/-- The last value a host read was answered with. -/
def lastReply (r : Result) : Option Reply := r.state?.bind fun t => t.replies.head?

def max256 : U256 := BitVec.allOnes 256
/-- A power of two as a value. -/
def pow2 (k : Nat) : U256 := BitVec.ofNat 256 (2 ^ k)
def smax : U256 := BitVec.ofNat 256 (2 ^ 255 - 1)

/-! ### WellFormed: each check refuses an ill-formed command -/

theorem test_wellFormed_refuses_fmt_radix_12 : (Instr.fmtU .lower 12).wellFormed = false := by decide
theorem test_wellFormed_refuses_fmt_radix_36 : (Instr.fmtS .lower 36).wellFormed = false := by decide
theorem test_wellFormed_refuses_uppercase_radix_10 : (Instr.fmtU .upper 10).wellFormed = false := by decide
theorem test_wellFormed_refuses_uppercase_radix_8 : (Instr.fmtS .upper 8).wellFormed = false := by decide
theorem test_wellFormed_accepts_uppercase_radix_16 : (Instr.fmtU .upper 16).wellFormed = true := by decide
theorem test_wellFormed_accepts_parse_radix_63 : (Instr.parseU .opa 63).wellFormed = true := by decide

/-! ### Decode: one word of every command, written out from 30_encoding.md R81 and R83
(reserved, RADIX, reserved, UC, IP, OP) -/

theorem test_decode_add : decode 0b0000000000_000000_000000_0_1_00000001 = .ok (.add .opa) := by decide
theorem test_decode_addcU : decode 0b0000000000_000000_000000_0_0_00000010 = .ok (.addcU .res) := by decide
theorem test_decode_addcS : decode 0b0000000000_000000_000000_0_0_00000011 = .ok (.addcS .res) := by decide
theorem test_decode_sub : decode 0b0000000000_000000_000000_0_1_00000100 = .ok (.sub .opa) := by decide
theorem test_decode_subbU : decode 0b0000000000_000000_000000_0_0_00000101 = .ok (.subbU .res) := by decide
theorem test_decode_subbS : decode 0b0000000000_000000_000000_0_0_00000110 = .ok (.subbS .res) := by decide
theorem test_decode_mul : decode 0b0000000000_000000_000000_0_1_00000111 = .ok (.mul .opa) := by decide
theorem test_decode_mulwU : decode 0b0000000000_000000_000000_0_0_00001000 = .ok (.mulwU .res) := by decide
theorem test_decode_mulwS : decode 0b0000000000_000000_000000_0_1_00001001 = .ok (.mulwS .opa) := by decide
theorem test_decode_shl : decode 0b0000000000_000000_000000_0_0_00010000 = .ok (.shl .res) := by decide
theorem test_decode_shrU : decode 0b0000000000_000000_000000_0_0_00010001 = .ok (.shrU .res) := by decide
theorem test_decode_shrS : decode 0b0000000000_000000_000000_0_1_00010010 = .ok (.shrS .opa) := by decide
theorem test_decode_rol : decode 0b0000000000_000000_000000_0_0_00010011 = .ok (.rol .res) := by decide
theorem test_decode_ror : decode 0b0000000000_000000_000000_0_0_00010100 = .ok (.ror .res) := by decide
theorem test_decode_clz : decode 0b0000000000_000000_000000_0_0_00010101 = .ok (.clz .res) := by decide
theorem test_decode_ctz : decode 0b0000000000_000000_000000_0_1_00010110 = .ok (.ctz .opa) := by decide
theorem test_decode_divremU : decode 0b0000000000_000000_000000_0_0_00100000 = .ok (.divremU .res) := by decide
theorem test_decode_divremS : decode 0b0000000000_000000_000000_0_1_00100001 = .ok (.divremS .opa) := by decide
theorem test_decode_fmtU : decode 0b0000000000_010000_000000_1_0_00110000 = .ok (.fmtU .upper 16) := by decide
theorem test_decode_fmtS : decode 0b0000000000_001010_000000_0_0_00110001 = .ok (.fmtS .lower 10) := by decide
theorem test_decode_parseU : decode 0b0000000000_111111_000000_0_1_00111000 = .ok (.parseU .opa 63) := by decide
theorem test_decode_parseS : decode 0b0000000000_100100_000000_0_0_00111001 = .ok (.parseS .res 36) := by decide
theorem test_decode_tobe : decode 0b0000000000_000000_000000_0_0_01000000 = .ok .tobe := by decide
theorem test_decode_tole : decode 0b0000000000_000000_000000_0_0_01000001 = .ok .tole := by decide
theorem test_decode_frombe : decode 0b0000000000_000000_000000_0_0_01000010 = .ok (.frombe .res) := by decide
theorem test_decode_fromle : decode 0b0000000000_000000_000000_0_1_01000011 = .ok (.fromle .opa) := by decide
theorem test_decode_tocompact : decode 0b0000000000_000000_000000_0_0_01000100 = .ok .tocompact := by decide
theorem test_decode_fromcompact : decode 0b0000000000_000000_000000_0_0_01000101 = .ok (.fromcompact .res) := by decide

/-- E1, E8. -/
theorem test_decode_refuses_unassigned_op :
    decode 0x00000000 = .error .unassignedOp ∧ decode 0x000000ff = .error .unassignedOp := by decide

/-- E9, E10. -/
theorem test_decode_refuses_reserved_bits :
    decode 0x00000401 = .error .reservedBits ∧ decode 0x80000001 = .error .reservedBits := by decide

/-- K22, E16. -/
theorem test_decode_refuses_ip : decode 0x00000140 = .error .ipNotAllowed ∧ decode 0x00100131 = .error .ipNotAllowed := by
  decide

/-- E11, E17, F21. -/
theorem test_decode_refuses_uc : decode 0x00000201 = .error .ucNotAllowed ∧ decode 0x00000238 = .error .ucNotAllowed ∧
    decode 0x000a0230 = .error .ucNotAllowed := by decide

/-- F20, E20. -/
theorem test_decode_refuses_fmt_radix : decode 0x000c0030 = .error .fmtRadix ∧ decode 0x00240030 = .error .fmtRadix := by
  decide

/-- E12. -/
theorem test_decode_refuses_radix : decode 0x00010001 = .error .radixNotZero := by decide

/-- A table word decodes alone, and a word with a bit above 32 does not. -/
theorem test_decodeTableWord : decodeTableWord 32 0x000a0138 = some (.parseU .opa 10) ∧
    decodeTableWord 32 0 = none ∧ decodeTableWord 40 (2 ^ 32 + 1) = none := by decide

/-! ### One command each -/

/-- A3. -/
theorem test_add : opa (exec (.add .opa) (operands 5 7)) = some 12 := by decide
/-- A4. -/
theorem test_addcU : status (exec (.addcU .res) (operands max256 1)) = some 1 := by decide
/-- A7. -/
theorem test_addcS : status (exec (.addcS .res) (operands smax 1)) = some 1 ∧
    res (exec (.addcS .res) (operands smax 1)) = some smin := by decide
/-- A13. -/
theorem test_sub : res (exec (.sub .res) (operands (pow2 128) 1)) = some (pow2 128 - 1) := by decide
/-- A14. -/
theorem test_subbU : status (exec (.subbU .res) (operands 0 1)) = some 1 := by decide
/-- A20: no overflow although the carry out of the high word is 0. -/
theorem test_subbS : status (exec (.subbS .res) (operands max256 smax)) = some 0 := by decide
/-- A23. -/
theorem test_mul : opa (exec (.mul .opa) (operands 3 (-7))) = some (-21) := by decide
/-- A25. -/
theorem test_mulwU : status (exec (.mulwU .res) (operands (pow2 128 + 1) (pow2 128 - 1))) = some 0 := by decide
/-- A29. -/
theorem test_mulwS : status (exec (.mulwS .res) (operands smin max256)) = some 1 ∧
    res (exec (.mulwS .res) (operands smin max256)) = some smin := by decide
/-- A32. -/
theorem test_mulwS_least : status (exec (.mulwS .res) (operands (-pow2 127) (pow2 128))) = some 0 := by decide
/-- A36. -/
theorem test_addcU_unwritten : faultOf (exec (.addcU .res) (State.reset.setOpa max256)) = some .unwrittenRead := by decide

/-- B1. -/
theorem test_shl : res (exec (.shl .res) (counted 1 255)) = some smin := by decide
/-- B4. -/
theorem test_shl_range : status (exec (.shl .res) (counted 1 256)) = some 0x2100 ∧
    fcmd (exec (.shl .res) (counted 1 256)) = some 0x10 := by decide
/-- B8. -/
theorem test_shrU : res (exec (.shrU .res) (counted max256 128)) = some (pow2 128 - 1) := by decide
/-- B13: rounds toward minus infinity. -/
theorem test_shrS : res (exec (.shrS .res) (counted (-7) 1)) = some (-4) := by decide
/-- B15. -/
theorem test_rol : res (exec (.rol .res) (counted (pow2 128 + 3) 128)) = some (3 * pow2 128 + 1) := by decide
/-- B31. -/
theorem test_rol_modulo : res (exec (.rol .res) (counted 1 257 altConfig)) = some 2 := by decide
/-- B18. -/
theorem test_ror : res (exec (.ror .res) (counted 1 1)) = some smin := by decide
/-- B20, B23. -/
theorem test_clz : res (exec (.clz .res) (operands 0 0)) = some 256 ∧
    res (exec (.clz .res) (operands (pow2 128) 0)) = some 127 := by decide
/-- B25, B28. -/
theorem test_ctz : res (exec (.ctz .res) (operands 0 0)) = some 256 ∧
    res (exec (.ctz .res) (operands smin 0)) = some 255 := by decide
/-- R219: unwritten before out of range. -/
theorem test_shrU_unwritten : faultOf (exec (.shrU .res) (State.reset.setCnt 300)) = some .unwrittenRead := by decide

/-- D8: the remainder is of the old OPA. -/
theorem test_divremU : opa (exec (.divremU .opa) (operands 100 7)) = some 14 ∧
    res2 (exec (.divremU .opa) (operands 100 7)) = some 2 := by decide
/-- D7. -/
theorem test_divremU_zero : status (exec (.divremU .res) (operands 5 0)) = some 0x3100 := by decide
/-- D10. -/
theorem test_divremS : res (exec (.divremS .res) (operands 7 (-2))) = some (-3) ∧
    res2 (exec (.divremS .res) (operands 7 (-2))) = some 1 := by decide
/-- D20, D21. -/
theorem test_divremS_faults : status (exec (.divremS .res) (operands smin (-1) altConfig)) = some 0x6100 ∧
    status (exec (.divremS .res) (operands smin 0 altConfig)) = some 0x3100 := by decide

/-- F4. -/
theorem test_fmtU : textOf (exec (.fmtU .upper 16) (operands 42 0)) = some [0x32, 0x41] := by decide
/-- F9: zeros inside the number are kept. -/
theorem test_fmtU_decimal : textOf (exec (.fmtU .lower 10) (operands 10000 0)) = some [0x31, 0x30, 0x30, 0x30, 0x30] := by
  decide
/-- F11. -/
theorem test_fmtS : textOf (exec (.fmtS .lower 10) (operands (-1) 0)) = some [0x31] ∧
    status (exec (.fmtS .lower 10) (operands (-1) 0)) = some 2 := by decide
/-- F18. -/
theorem test_fmtS_magnitude : textOf (exec (.fmtS .lower 16) (operands (-42) 0 altConfig)) = some [0x32, 0x61] ∧
    status (exec (.fmtS .lower 16) (operands (-42) 0 altConfig)) = some 2 := by decide

/-- P11. -/
theorem test_parseU : res (exec (.parseU .res 16) (text [0x46, 0x66])) = some 255 := by decide
/-- P20: the overflow stands before the bad byte. P26: LEN_RANGE before RADIX_RANGE. -/
theorem test_parseU_order : status (exec (.parseU .res 36) (text (List.replicate 50 0x7a ++ [0x3f]))) = some 0x30 ∧
    status (exec (.parseU .res 40) (lengthOnly 600)) = some 0x5100 := by decide
/-- P5. -/
theorem test_parseS : res (exec (.parseS .res 10) (text [0x2d, 0x31])) = some (-1) := by decide
/-- P30. -/
theorem test_parseS_least : res (exec (.parseS .res 16) (text (0x2d :: 0x38 :: List.replicate 63 0x30))) = some smin := by
  decide

/-- K7's value, in the fixed form of R196. -/
theorem test_tobe : textOf (exec .tobe (operands 0x12345 0)) =
    some (List.replicate 29 0 ++ [0x01, 0x23, 0x45]) := by decide
/-- The same value in the form of R197. -/
theorem test_tole : textOf (exec .tole (operands 0x12345 0)) =
    some ([0x45, 0x23, 0x01] ++ List.replicate 29 0) := by decide
/-- K4. -/
theorem test_frombe : res (exec (.frombe .res) (text (List.replicate 31 0 ++ [1]))) = some 1 := by decide
/-- K19. -/
theorem test_frombe_unwritten : faultOf (exec (.frombe .res) (text (List.replicate 31 0))) = some .unwrittenRead := by decide
/-- K5. -/
theorem test_fromle : res (exec (.fromle .res) (text (1 :: List.replicate 31 0))) = some 1 := by decide
/-- K7. -/
theorem test_tocompact : textOf (exec .tocompact (operands 0x12345 0)) = some [0x01, 0x23, 0x45] := by decide
/-- K8, K20. -/
theorem test_tocompact_zero : textOf (exec .tocompact (operands 0 0)) = some [] ∧
    textOf (exec .tocompact (operands 0 0 altConfig)) = some [0] := by decide
/-- K14. -/
theorem test_fromcompact : res (exec (.fromcompact .res) (text [0, 1])) = some 1 := by decide
/-- K16, K17. -/
theorem test_fromcompact_length : status (exec (.fromcompact .res) (lengthOnly 33)) = some 0x50 ∧
    status (exec (.fromcompact .res) (lengthOnly 513)) = some 0x5100 := by decide

/-! ### The window and steps -/

/-- H2. -/
theorem test_len_reads_ten_bits :
    lastReply (performAll [.busWrite 32 0x084 0xffffffff, .busRead 32 0x084] State.reset) = some (.word 0x3ff) := by decide
/-- H7. -/
theorem test_bus_errors : faultOf (perform (.busRead 16 0) State.reset) = some .busError ∧
    faultOf (perform (.busWrite 32 2 0) State.reset) = some .busError := by decide
/-- H10. -/
theorem test_buf_packing : res (performAll [.busWrite 32 0x200 0x312d, .busWrite 32 0x084 2,
    .busWrite 32 0x08c 0x000a0039] State.reset) = some (-1) := by decide
/-- The `wr` statement of R92: the words of R53, the least significant first. -/
theorem test_wr_statement : opa (performAll ((HostStmt.wrOperand .opa (pow2 32 + 7)).accesses Config.standard) State.reset) =
    some (pow2 32 + 7) := by decide
/-- H12: the command after a fault is ignored, and the writes before it are not. -/
theorem test_fault_is_sticky : status (performAll [.writeOperand .opa 1, .writeOperand .opb 1,
      .busWrite 32 0x08c 1] faulted) = some 0x1100 ∧
    opa (performAll [.writeOperand .opa 1, .writeOperand .opb 1, .busWrite 32 0x08c 1] faulted) = some 1 := by decide
/-- H13. -/
theorem test_reset_leaves_the_fault : status (perform .reset faulted) = some 0 := by decide
/-- A command placed for the next step runs in it. -/
theorem test_withFetchWord : res (step ((operands 5 7).withFetchWord 32 1)) = some 12 := by decide
/-- The base of the window moves every address (R51). -/
theorem test_base : faultOf (perform (.busRead 32 0x084) (built altConfig)) = some .busError ∧
    lastReply (perform (.busRead 32 (5 * 1024 + 0x084)) (built altConfig)) = some (.word 0) := by decide

/-! ### States and operands that meet the hypotheses of the statements -/

theorem witness_DecodeOfEncode : (Instr.fmtU .upper 16).wellFormed = true := by decide
theorem witness_EncodeOfDecode : decode 0x00100230 = .ok (.fmtU .upper 16) := by decide

/-- FAULT = 0, and a word for each of the six conditions, and a legal one. -/
theorem witness_DecodeCheckRaisesIllegalCommand : statusFault State.reset.status = false ∧ illegalWord 0 ∧
    illegalWord 0x401 ∧ illegalWord 0x140 ∧ illegalWord 0x201 ∧ illegalWord 0x000c0030 ∧ illegalWord 0x00010001 ∧
    ¬illegalWord 0x00100230 := by
  refine ⟨by decide, ?_, ?_, ?_, ?_, ?_, ?_, ?_⟩ <;> simp only [illegalWord] <;> decide

theorem witness_StepRunsTheDecodedCommand :
    let s := operands 5 7
    statusFault s.status = false ∧ decode 1 = .ok (.add .res) ∧
    (s.setHostOps [.busWrite 32 (busAddr s.config 0x08c) 1]).hostOps = .busWrite 32 (busAddr s.config 0x08c) 1 :: [] ∧
    (s.setHostOps [.writeControl .cmd 1]).hostOps = .writeControl .cmd 1 :: [] := by decide

theorem witness_IdleStepAndPresentedCommand : State.reset.hostOps = [] ∧
    (Instr.fmtS .lower 10).wellFormed = true ∧ statusFault State.reset.status = false := by decide

theorem witness_FaultBlocksCommandsOnly :
    statusFault faulted.status = true ∧ writesCmd faulted.config (.writeControl .cmd 1) ∧
    writesCmd faulted.config (.busWrite 32 (busAddr faulted.config 0x08c) 1) ∧
    (∀ op ∈ [HostOp.busWrite 32 (busAddr faulted.config 0x088) 1, .busRead 32 (busAddr faulted.config 0x08c)],
      ¬writesCmd faulted.config op ∧ ¬readsStatus faulted.config op ∧ op ≠ .reset ∧ ∃ t, perform op faulted = .next t) ∧
    perform (.readReg .res) faulted = .fault .unwrittenRead := by
  refine ⟨by decide, ⟨1, .inl rfl⟩, ⟨1, .inr rfl⟩, fun op h => ?_, rfl⟩
  simp only [List.mem_cons, List.not_mem_nil, or_false] at h
  rcases h with rfl | rfl
  · exact ⟨by rintro ⟨c, h | h⟩ <;> simp [busAddr] at h, by rintro (h | h) <;> simp at h, by simp, _, rfl⟩
  · exact ⟨by rintro ⟨c, h | h⟩ <;> simp at h, by rintro (h | h) <;> simp [busAddr] at h, by simp, _, rfl⟩

theorem witness_OnlyResetLeavesTheFault : statusFault faulted.status = true ∧
    (∃ t, step (faulted.setHostOps [.writeControl .cmd 1]) = .next t) ∧
    (∃ t, step (faulted.setHostOps [.reset]) = .next t) := by
  exact ⟨by decide, ⟨_, rfl⟩, ⟨_, rfl⟩⟩

/-- A command that goes into the fault state. -/
theorem witness_FaultEntryWritesOnlyTheFaultState : statusFault (operands 5 0).status = false ∧
    ∃ t, exec (.divremU .res) (operands 5 0) = .next t ∧ statusFault t.status = true := by
  exact ⟨by decide, _, rfl, by decide⟩

/-- A fault, an error, and a completion. -/
theorem witness_CommandFaultsReportsOrCompletes : (∃ t, exec (.shl .res) (counted 1 256) = .next t) ∧
    (∃ t, exec (.parseU .res 10) (text []) = .next t) ∧ (∃ t, exec (.parseU .res 10) (text [0x31]) = .next t) := by
  exact ⟨⟨_, rfl⟩, ⟨_, rfl⟩, ⟨_, rfl⟩⟩

theorem witness_CommandRunsExactlyOnWrittenInputs :
    inputsReady (.fromcompact .res) (lengthOnly 33) ∧ ¬inputsReady (.fromcompact .res) (lengthOnly 32) ∧
    inputsReady (.shl .res) (counted 1 300) ∧ ¬inputsReady (.shl .res) (State.reset.setCnt 300) := by
  refine ⟨fun h => absurd h (by decide), fun h => absurd (h (by decide)) fun h' => h' 0 (by decide) (by decide), ?_, ?_⟩ <;>
    unfold inputsReady opaReady cntReady <;> decide

theorem witness_ResetHidesTheCommandBefore : ∃ t, exec (.add .res) (operands 5 7) = .next t := ⟨_, rfl⟩

theorem witness_AdditionResults : (operands max256 1).opa.value = some max256 ∧ (operands max256 1).opb.value = some 1 := by
  decide
theorem witness_SubtractionResults : (operands 0 1).opa.value = some 0 ∧ (operands 0 1).opb.value = some 1 := by decide
theorem witness_MultiplicationResults :
    (operands smin max256).opa.value = some smin ∧ (operands smin max256).opb.value = some max256 := by decide

theorem witness_ShiftResults : (counted 1 255).opa.value = some 1 ∧ (counted 1 255).cnt.value = some 255 ∧
    (255 : Word).toNat < 256 := by decide

/-- The least count out of range, under both values of `ROT_COUNT`. -/
theorem witness_CountOutOfRangeFaults : (counted 1 256).opa.value = some 1 ∧ (counted 1 256).cnt.value = some 256 ∧
    256 ≤ (256 : Word).toNat ∧ (counted 1 256).config.rotCount = .fault ∧
    (counted 1 256 altConfig).opa.value = some 1 ∧ (counted 1 256 altConfig).cnt.value = some 256 ∧
    (counted 1 256 altConfig).config.rotCount = .modulo := by decide

theorem witness_RotateResults : (counted 1 255).opa.value = some 1 ∧ (counted 1 255).cnt.value = some 255 ∧
    (255 : Word).toNat < 256 ∧ (counted 1 256 altConfig).opa.value = some 1 ∧
    (counted 1 256 altConfig).cnt.value = some 256 ∧ (counted 1 256 altConfig).config.rotCount = .modulo := by decide

theorem witness_ZeroCountResults : (operands 0 0).opa.value = some 0 ∧ (operands 1 0).opa.value = some 1 := by decide

theorem witness_UnsignedDivisionLaw : (operands max256 1).opa.value = some max256 ∧
    (operands max256 1).opb.value = some 1 ∧ (1 : U256) ≠ 0 := by decide

/-- Beside the excluded pair: -2^255 by 1. -/
theorem witness_SignedDivisionLaw : (operands smin 1).opa.value = some smin ∧ (operands smin 1).opb.value = some 1 ∧
    (1 : U256) ≠ 0 ∧ ¬(smin.toInt = -2 ^ 255 ∧ (1 : U256).toInt = -1) := by decide

theorem witness_DivisionByZeroFaults :
    (operands 5 0).opa.value = some 5 ∧ (operands 5 0).opb.value = some (0 : U256) := by decide

theorem witness_SignedDivisionOfMinByMinusOne :
    (operands smin max256).opa.value = some (BitVec.ofNat 256 (2 ^ 255)) ∧
    (operands smin max256).opb.value = some (BitVec.allOnes 256) ∧ (operands smin max256).config.sdivMinNeg1 = .wrap ∧
    (operands smin max256 altConfig).opa.value = some (BitVec.ofNat 256 (2 ^ 255)) ∧
    (operands smin max256 altConfig).opb.value = some (BitVec.allOnes 256) ∧
    (operands smin max256 altConfig).config.sdivMinNeg1 = .fault := by decide

theorem witness_BitwiseLongDivisionAgrees : (1 : U256) ≠ 0 := by decide

theorem witness_FormatUnsignedResult : (operands max256 0).opa.value = some max256 ∧
    (2 : BitVec 6).toNat ∈ [2, 8, 10, 16] ∧ (16 : BitVec 6).toNat ∈ [2, 8, 10, 16] ∧
    (DigitCase.lower = .upper → (2 : BitVec 6).toNat = 16) ∧ (DigitCase.upper = .upper → (16 : BitVec 6).toNat = 16) := by
  decide

/-- Radix 10, radix 16 under `sign_magnitude`, and radix 16 under `twos_complement`. -/
theorem witness_FormatSignedResult : (operands max256 0).opa.value = some max256 ∧
    (10 : BitVec 6).toNat ∈ [2, 8, 10, 16] ∧ (16 : BitVec 6).toNat ∈ [2, 8, 10, 16] ∧
    (DigitCase.lower = .upper → (10 : BitVec 6).toNat = 16) ∧ (10 : BitVec 6).toNat = 10 ∧
    (operands max256 0 altConfig).opa.value = some max256 ∧
    (operands max256 0 altConfig).config.signedRadixFmt = .signMagnitude ∧
    (16 : BitVec 6).toNat ≠ 10 ∧ (operands max256 0).config.signedRadixFmt = .twosComplement := by decide

theorem witness_NumeralLengths : 0 < 2 ^ 256 ∧ 2 ^ 256 - 1 < 2 ^ 256 ∧
    (operands (BitVec.allOnes 256) 0).opa.value = some (BitVec.allOnes 256) ∧
    ∀ p ∈ [(2, 256), (8, 86), (10, 78), (16, 64)], (BitVec.ofNat 6 p.1).toNat = p.1 ∧
      (p = (16, 64) → (BitVec.ofNat 6 p.1).toNat = 16) := by
  decide

theorem witness_DecimalByGroupsAgrees : 0 < 2 ^ 256 ∧ 2 ^ 256 - 1 < 2 ^ 256 := by decide

/-- Both ends of each range of digits, and the bytes beside them. -/
theorem witness_DigitValues :
    digitOf 0x30 = some 0 ∧ digitOf 0x39 = some 9 ∧ digitOf 0x61 = some 10 ∧ digitOf 0x7a = some 35 ∧
    digitOf 0x41 = some 10 ∧ digitOf 0x5a = some 35 ∧
    ∀ ch ∈ [(0x2f : Byte), 0x3a, 0x40, 0x5b, 0x60, 0x7b], digitOf ch = none := by decide

/-- The text of 2^256 - 1 in radix 16. -/
def maxHex : List Byte := List.replicate 64 0x66
/-- The text of 2^256 in radix 16. -/
def overHex : List Byte := 0x31 :: List.replicate 64 0x30
/-- The texts of 2^255 - 1, 2^255 and 2^255 + 1 in radix 16. -/
def smaxHex : List Byte := 0x37 :: List.replicate 63 0x66
def sminHex : List Byte := 0x38 :: List.replicate 63 0x30
def belowHex : List Byte := 0x38 :: (List.replicate 62 0x30 ++ [0x31])

theorem denotes_maxHex : Denotes 16 maxHex (2 ^ 256 - 1) :=
  ⟨List.replicate 64 15, by decide, by decide, by decide⟩
theorem denotes_overHex : Denotes 16 overHex (2 ^ 256) :=
  ⟨1 :: List.replicate 64 0, by decide, by decide, by decide⟩
theorem denotes_smaxHex : Denotes 16 smaxHex (2 ^ 255 - 1) :=
  ⟨7 :: List.replicate 63 15, by decide, by decide, by decide⟩
theorem denotes_sminHex : Denotes 16 sminHex (2 ^ 255) :=
  ⟨8 :: List.replicate 63 0, by decide, by decide, by decide⟩
theorem denotes_belowHex : Denotes 16 belowHex (2 ^ 255 + 1) :=
  ⟨8 :: (List.replicate 62 0 ++ [1]), by decide, by decide, by decide⟩

/-- The greatest value that fits, and the least that does not with a byte after it that is no digit. -/
theorem witness_ParseUnsignedResult : 2 ≤ (16 : BitVec 6).toNat ∧ (16 : BitVec 6).toNat ≤ 36 ∧
    HoldsText (text ([0x2b] ++ maxHex ++ [])) ([0x2b] ++ maxHex ++ []) ∧ maxHex ≠ [] ∧
    Denotes (16 : BitVec 6).toNat maxHex (2 ^ 256 - 1) ∧
    HoldsText (text ([] ++ overHex ++ [0x3f])) ([] ++ overHex ++ [0x3f]) ∧
    Denotes (16 : BitVec 6).toNat overHex (2 ^ 256) := by
  refine ⟨by decide, by decide, ?_, by decide, denotes_maxHex, ?_, denotes_overHex⟩ <;> unfold HoldsText <;> decide

/-- 2^255 - 1 and 2^255 without a sign, -2^255 and -2^255 - 1 with one. -/
theorem witness_ParseSignedResult : 2 ≤ (16 : BitVec 6).toNat ∧ (16 : BitVec 6).toNat ≤ 36 ∧
    HoldsText (text ([] ++ smaxHex ++ [])) ([] ++ smaxHex ++ []) ∧
    HoldsText (text ([0x2b] ++ sminHex ++ [])) ([0x2b] ++ sminHex ++ []) ∧
    HoldsText (text ([0x2d] ++ sminHex ++ [])) ([0x2d] ++ sminHex ++ []) ∧
    HoldsText (text ([0x2d] ++ belowHex ++ [])) ([0x2d] ++ belowHex ++ []) ∧
    smaxHex ≠ [] ∧ sminHex ≠ [] ∧ belowHex ≠ [] ∧ Denotes (16 : BitVec 6).toNat smaxHex (2 ^ 255 - 1) ∧
    Denotes (16 : BitVec 6).toNat sminHex (2 ^ 255) ∧ Denotes (16 : BitVec 6).toNat belowHex (2 ^ 255 + 1) := by
  refine ⟨by decide, by decide, ?_, ?_, ?_, ?_, by decide, by decide, by decide, denotes_smaxHex, denotes_sminHex,
    denotes_belowHex⟩ <;> unfold HoldsText <;> decide

theorem witness_ParseEmptyText : 2 ≤ (2 : BitVec 6).toNat ∧ (36 : BitVec 6).toNat ≤ 36 ∧ HoldsText (text []) [] ∧
    HoldsText (text [0x2b]) [0x2b] ∧ HoldsText (text [0x2d]) [0x2d] := by
  refine ⟨by decide, by decide, ?_, ?_, ?_⟩ <;> unfold HoldsText <;> decide

/-- A bad byte first, after `+`, after `-`, and after the digits of the greatest value. -/
theorem witness_ParseInvalidDigit : 2 ≤ (16 : BitVec 6).toNat ∧ (16 : BitVec 6).toNat ≤ 36 ∧
    HoldsText (text ([] ++ [] ++ 0x3f :: [])) ([] ++ [] ++ 0x3f :: []) ∧ Denotes (16 : BitVec 6).toNat [] 0 ∧
    HoldsText (text ([0x2b] ++ maxHex ++ 0x67 :: [])) ([0x2b] ++ maxHex ++ 0x67 :: []) ∧
    Denotes (16 : BitVec 6).toNat maxHex (2 ^ 256 - 1) ∧
    HoldsText (text ([0x2d] ++ sminHex ++ 0x2d :: [])) ([0x2d] ++ sminHex ++ 0x2d :: []) ∧
    Denotes (16 : BitVec 6).toNat sminHex (2 ^ 255) ∧
    ∀ bad ∈ [(0x3f : Byte), 0x67, 0x2d], ∀ d, digitOf bad = some d → (16 : BitVec 6).toNat ≤ d := by
  refine ⟨by decide, by decide, ?_, ⟨[], rfl, by decide, by decide⟩, ?_, denotes_maxHex, ?_, denotes_sminHex, ?_⟩
  · unfold HoldsText; decide
  · unfold HoldsText; decide
  · unfold HoldsText; decide
  · intro bad hb d hd
    simp only [List.mem_cons, List.not_mem_nil, or_false] at hb
    rcases hb with rfl | rfl | rfl <;> revert hd <;> unfold digitOf <;> simp
    omega

/-- The least LEN out of range; the greatest in range with the radices beside 2 and 36. -/
theorem witness_ParseRangeFaults : 512 < (lengthOnly 513).len.toNat ∧ (lengthOnly 512).len.toNat ≤ 512 ∧
    ¬(2 ≤ (1 : BitVec 6).toNat ∧ (1 : BitVec 6).toNat ≤ 36) ∧ ¬(2 ≤ (37 : BitVec 6).toNat ∧ (37 : BitVec 6).toNat ≤ 36) := by
  decide

theorem witness_FormatThenParseGivesBackTheValue : (16 : BitVec 6).toNat ∈ [2, 8, 10, 16] ∧
    (operands 255 0).opa.value = some 255 ∧ (DigitCase.upper = .upper → (16 : BitVec 6).toNat = 16) ∧
    ∃ t, exec (.fmtU .upper 16) (operands 255 0) = .next t := by
  exact ⟨by decide, by decide, fun _ => by decide, _, rfl⟩

theorem witness_FixedEncodingResults : (operands smin 0).opa.value = some smin := by decide

theorem witness_FixedDecodingResults : (List.replicate 31 (0 : Byte) ++ [1]).length = 32 ∧
    ∀ j < 32, bufRead (text (List.replicate 31 0 ++ [1])).buf j = (List.replicate 31 (0 : Byte) ++ [1])[j]? := by decide

theorem witness_CompactEncodingResult : (operands 0 0).opa.value = some (0 : U256) ∧
    (operands 0 0 altConfig).opa.value = some (0 : U256) ∧ (operands (pow2 248) 0).opa.value = some (pow2 248) ∧
    pow2 248 ≠ 0 := by decide

/-- No byte, 32 bytes, and the least LEN out of range. -/
theorem witness_CompactDecodingResult : ([] : List Byte).length = (text []).len.toNat ∧
    (List.replicate 32 (0xff : Byte)).length = (text (List.replicate 32 0xff)).len.toNat ∧
    (text (List.replicate 32 0xff)).len.toNat ≤ 32 ∧
    (∀ j < 32, bufRead (text (List.replicate 32 0xff)).buf j = (List.replicate 32 (0xff : Byte))[j]?) ∧
    512 < (lengthOnly 513).len.toNat := by decide

theorem witness_CompactLengthExceeded : 33 ≤ (lengthOnly 33).len.toNat ∧ (lengthOnly 33).len.toNat ≤ 512 ∧
    33 ≤ (lengthOnly 512).len.toNat ∧ (lengthOnly 512).len.toNat ≤ 512 := by decide

theorem witness_CodecRoundTrips : (operands 256 0).opa.value = some 256 ∧ (256 : U256) ≠ 0 ∧
    ∃ t, exec .tocompact (operands 256 0) = .next t ∧ 1 ≤ t.len.toNat := by
  exact ⟨by decide, by decide, _, rfl, by decide⟩

theorem witness_CommandsWriteOnlyTheirRow : (∃ t, exec (.mul .opa) (operands 3 5) = .next t) ∧
    (Instr.mul .opa).dst? ≠ some .res ∧ writesRes2 (.mul .opa) = false ∧ writesBuf (.mul .opa) = false ∧
    (∃ t, exec .tobe (operands 3 5) = .next t) ∧ Instr.tobe.dst? ≠ some .opa := by
  exact ⟨⟨_, rfl⟩, by decide, by decide, by decide, ⟨_, rfl⟩, by decide⟩

/-- Each field untouched by some command, a command in the fault state, and one that does not fault. -/
theorem witness_StatusFieldsChangeOnlyByTheirCommands : (∃ t, exec (.add .res) (operands 3 5) = .next t ∧
      statusFault t.status = false) ∧ writesOvf (.add .res) = false ∧ writesNeg (.add .res) = false ∧
    writesErr (.add .res) = false ∧ statusFault ((faulted.setOpa 3).setOpb 5).status = true ∧
    ∃ t, exec (.add .res) ((faulted.setOpa 3).setOpb 5) = .next t := by
  exact ⟨⟨_, rfl, by decide⟩, by decide, by decide, by decide, by decide, _, rfl⟩

theorem witness_CommandsKeepOtherBytes : writesBuf (.add .res) = false ∧
    (∃ t, exec (.add .res) (operands 3 5) = .next t) ∧ (∃ t, exec .tobe (operands 3 5) = .next t) ∧ 32 ≤ 32 ∧
    (operands 3 5).opa.value = some 3 ∧ (∃ t, exec .tocompact (operands 3 5) = .next t) ∧
    compactLength (operands 3 5).config 3 ≤ 1 ∧ (∃ t, exec (.fmtU .lower 2) (operands 3 5) = .next t) ∧
    (digitString .lower (2 : BitVec 6).toNat (uint 3)).length ≤ 2 ∧
    (∃ t, exec (.fmtS .lower 10) (operands 3 5) = .next t) := by
  exact ⟨by decide, ⟨_, rfl⟩, ⟨_, rfl⟩, by decide, by decide, ⟨_, rfl⟩, by decide, ⟨_, rfl⟩, by decide, ⟨_, rfl⟩⟩

theorem witness_StepsKeepTheParameters : ∃ t, step ((operands 5 7).withFetchWord 32 1) = .next t := ⟨_, rfl⟩

/-- A read on the bus, of a register, and of a byte. -/
theorem witness_ReadsHaveNoSideEffects : (∃ t, perform (.busRead 32 0x088) State.reset = .next t) ∧
    (∃ t, perform (.readReg .opa) (operands 5 7) = .next t) ∧ (∃ t, perform (.readBuf 0) (text [0x31]) = .next t) ∧
    (operands 5 7).opb.value = some 7 ∧ (operands 5 7).res.value = none ∧
    (counted 1 256).cnt.written = true ∧ (operands 5 7).cnt.written = false ∧
    bufRead (text [0x31]).buf 0 = some 0x31 ∧ bufRead (text [0x31]).buf 511 = none := by
  exact ⟨⟨_, rfl⟩, ⟨_, rfl⟩, ⟨_, rfl⟩, by decide, by decide, by decide, by decide, by decide, by decide⟩

theorem witness_MisalignedOrNarrowAccessIsBusError : 0 < 1024 ∧ (16 ≠ 32 ∨ 0 % 4 ≠ 0) ∧ 1023 < 1024 ∧
    (32 ≠ 32 ∨ 1023 % 4 ≠ 0) := by decide

/-- The first and the last word of each range. -/
theorem witness_AccessesWithNoTarget : (0x094 ≤ 0x094 ∧ 0x094 < 0x200 ∧ 0x094 % 4 = 0) ∧
    (0x094 ≤ 0x1fc ∧ 0x1fc < 0x200 ∧ 0x1fc % 4 = 0) ∧
    ∀ off ∈ [0x040, 0x07c, 0x088, 0x090], (0x040 ≤ off ∧ off < 0x080 ∧ off % 4 = 0) ∨ off = 0x088 ∨ off = 0x090 := by decide

/-- The first and the last word, written and not. -/
theorem witness_RegisterWordsOnTheBus : (operands 5 7).opa.written[(0 : Fin 8)] = true ∧
    (operands 5 7).opb.written[(7 : Fin 8)] = true ∧ (operands 5 7).res.written[(0 : Fin 8)] = false ∧
    (operands 5 7).res2.written[(7 : Fin 8)] = false ∧ (counted 1 256).cnt.written = true ∧
    (operands 5 7).cnt.written = false := by decide

/-- The first and the last word of BUF, written, and a word with its last byte unwritten. -/
theorem witness_BufWordsOnTheBus : 0 < 128 ∧ 127 < 128 ∧
    (∀ j < 4, bufRead (bufPutWord [] (4 * 0) 0x04030201) (4 * 0 + j) ≠ none) ∧
    (∀ j < 4, bufRead (bufPutWord [] (4 * 127) 0x04030201) (4 * 127 + j) ≠ none) ∧
    bufRead (text [0x31, 0x32, 0x33]).buf (4 * 0 + 2) ≠ none ∧ bufRead (text [0x31, 0x32, 0x33]).buf (4 * 0 + 3) = none := by
  decide

theorem witness_WholeWriteIsEightWordWrites : [7, 6, 5, 4, 3, 2, 1, 0].Perm (List.range 8) := by decide

theorem reset_wf : State.reset.Wf where
  opa := by unfold Reg256.Wf; decide
  opb := by unfold Reg256.Wf; decide
  res := by unfold Reg256.Wf; decide
  res2 := by unfold Reg256.Wf; decide
  cnt := by decide
  len := by decide
  reserved := by decide
  err := by decide
  fcause := by decide
  noFault := by decide
  hasFault := by decide
  buf := by decide

theorem witness_StepKeepsGoodStates : State.reset.Wf ∧ ∃ t, step State.reset = .next t := ⟨reset_wf, _, rfl⟩

/-- A state with a true fault record, and a step into one. -/
theorem witness_StepKeepsTheFaultRecordTrue : faulted.FaultRecordTrue ∧ State.reset.FaultRecordTrue ∧
    ∃ t, step (State.reset.withFetchWord 32 0) = .next t := by
  refine ⟨fun _ => ⟨.illegalCommand, by decide, trivial⟩, fun h => absurd h (by decide), _, rfl⟩

end Sys2Proof.Tests
end

/-! SUPPORT. The state of the block (family 10_state): the rules of its operations, what a command can do to it, and
that every access keeps a good state good. -/

/-! ### Fields of STATUS against a mask (10_state.md R27) -/

section
namespace Sys2Proof.Machine

/-- A field write shows no bit through a mask that is zero on the field. -/
theorem putBits_and_mask {m n : Nat} (v mask : BitVec m) (lo : Nat) (x : BitVec n)
    (h : ∀ j < m, lo ≤ j ∧ j < lo + n → mask.getLsbD j = false) : putBits v lo x &&& mask = v &&& mask := by
  apply BitVec.eq_of_getLsbD_eq
  intro j hj
  rw [BitVec.getLsbD_and, BitVec.getLsbD_and, getLsbD_putBits]
  split_ifs with hin
  · simp [h j hj hin.2]
  · rfl

@[simp] theorem withOvf_and_statusReserved (b : Bool) (w : Word) :
    withOvf b w &&& statusReserved = w &&& statusReserved := putBits_and_mask _ _ _ _ (by decide)
@[simp] theorem withNeg_and_statusReserved (b : Bool) (w : Word) :
    withNeg b w &&& statusReserved = w &&& statusReserved := putBits_and_mask _ _ _ _ (by decide)
@[simp] theorem withErr_and_statusReserved (e : BitVec 3) (w : Word) :
    withErr e w &&& statusReserved = w &&& statusReserved := putBits_and_mask _ _ _ _ (by decide)
@[simp] theorem withFault_and_statusReserved (w : Word) :
    withFault w &&& statusReserved = w &&& statusReserved := putBits_and_mask _ _ _ _ (by decide)
@[simp] theorem withFcause_and_statusReserved (k : BitVec 4) (w : Word) :
    withFcause k w &&& statusReserved = w &&& statusReserved := putBits_and_mask _ _ _ _ (by decide)

theorem ErrKind.code_toNat_le (kind : ErrKind) : kind.code.toNat ≤ 5 := by cases kind <;> decide

theorem FaultCause.code_toNat_le (cause : FaultCause) : cause.code.toNat ≤ 6 := by cases cause <;> decide

theorem FaultCause.code_ne_zero (cause : FaultCause) : cause.code ≠ 0 := by cases cause <;> decide

end Sys2Proof.Machine
end

/-! ### Unwritten words, destinations, strings in BUF, and the lengths of the stored strings -/

section
namespace Sys2Proof.Machine

@[simp] theorem Reg256.word_unwritten (k : Fin 8) : Reg256.unwritten.word k = none := by
  simp [word, unwritten]

theorem State.setDst_opa_of_ne (s : State) (dst : Dst) (v : U256) (h : dst ≠ .opa) :
    (s.setDst dst v).opa = s.opa := by
  cases dst with
  | opa => exact absurd rfl h
  | res => rfl

theorem State.setDst_res_of_ne (s : State) (dst : Dst) (v : U256) (h : dst ≠ .res) :
    (s.setDst dst v).res = s.res := by
  cases dst with
  | opa => rfl
  | res => exact absurd rfl h

/-- A string stored from index 0 leaves every byte from its length on. -/
theorem bufRead_putString_of_length_le (s : State) (bs : List Byte) (j : Nat) (h : bs.length ≤ j) :
    bufRead (s.putString bs).buf j = bufRead s.buf j := by
  rw [State.putString_buf, bufRead_memWrite, if_neg (by omega)]

theorem bufRead_putDigits_of_length_le (s : State) (neg : Bool) (bs : List Byte) (j : Nat) (h : bs.length ≤ j) :
    bufRead (s.putDigits neg bs).buf j = bufRead s.buf j :=
  bufRead_putString_of_length_le s bs j h

/-- An encoder leaves every byte of BUF from its string's length on. -/
theorem bufRead_encodeOp_of_length_le (f : U256 → List Byte) {s t : State} {j : Nat}
    (h : encodeOp f s = .next t) (hj : ∀ a, s.opa.value = some a → (f a).length ≤ j) :
    bufRead t.buf j = bufRead s.buf j := by
  obtain ⟨a, ha, rfl⟩ := (encodeOp_next _ _ _).1 h
  exact bufRead_putString_of_length_le s (f a) j (hj a ha)

@[simp] theorem length_bytesBE (n : Nat) (v : U256) : (bytesBE n v).length = n := by simp [bytesBE]

@[simp] theorem length_bytesLE (n : Nat) (v : U256) : (bytesLE n v).length = n := by simp [bytesLE]

theorem bitLength_uint_le (v : U256) : bitLength (uint v) ≤ 256 := by
  unfold bitLength
  split_ifs with h
  · omega
  · have := (Nat.log2_lt h).2 v.isLt
    omega

/-- A compact encoding has at most 32 bytes (45_codec.md R200). -/
theorem compactLength_le (cfg : Config) (v : U256) : compactLength cfg v ≤ 32 := by
  have := bitLength_uint_le v
  unfold compactLength
  split_ifs <;> omega

theorem length_digitValues_le (radix fuel x : Nat) : (digitValues radix fuel x).length ≤ fuel := by
  induction fuel generalizing x with
  | zero => simp [digitValues]
  | succ fuel ih =>
    rw [digitValues]
    split_ifs
    · simp
    · simpa using ih (x / radix)

/-- A digit string has at most 256 bytes (43_formatter.md R172). -/
theorem length_digitString_le (letters : DigitCase) (radix x : Nat) :
    (digitString letters radix x).length ≤ 256 := by
  simpa [digitString] using length_digitValues_le radix 256 x

end Sys2Proof.Machine
end

/-! ### Next states of the meanings that are no shared operand form -/

section
namespace Sys2Proof.Machine
variable {s t : State}

/-- FMT.U: ILLEGAL_COMMAND on a term no word encodes, else the digits of the unsigned reading. -/
theorem execFmtU_next {letters : DigitCase} {radix : BitVec 6} (h : execFmtU letters radix s = .next t) :
    (fmtLegal letters radix = false ∧ t = s.raiseFault .illegalCommand (encode (.fmtU letters radix))) ∨
    (fmtLegal letters radix = true ∧ ∃ a, s.opa.value = some a ∧
      t = s.putDigits false (digitString letters radix.toNat (uint a))) := by
  unfold execFmtU at h
  split_ifs at h with hl
  · obtain ⟨a, ha, h⟩ := (withOpa_next _ _ _).1 h
    exact .inr ⟨hl, a, ha, (Host.Outcome.next.inj h).symm⟩
  · exact .inl ⟨by simpa using hl, (takeFault_next _ _ _ _).1 h⟩

/-- FMT.S: ILLEGAL_COMMAND on a term no word encodes, else sign and magnitude, or the digits of the unsigned
reading. -/
theorem execFmtS_next {letters : DigitCase} {radix : BitVec 6} (h : execFmtS letters radix s = .next t) :
    (fmtLegal letters radix = false ∧ t = s.raiseFault .illegalCommand (encode (.fmtS letters radix))) ∨
    (fmtLegal letters radix = true ∧ ∃ a, s.opa.value = some a ∧
      t = s.putDigits (formatsMagnitude s.config radix && sint a < 0) (digitString letters radix.toNat
        (if formatsMagnitude s.config radix then (sint a).natAbs else uint a))) := by
  unfold execFmtS at h
  by_cases hl : fmtLegal letters radix = true
  · rw [if_pos hl] at h
    obtain ⟨a, ha, h⟩ := (withOpa_next _ _ _).1 h
    refine .inr ⟨hl, a, ha, ?_⟩
    split_ifs at h with hm
    · simpa [hm] using (Host.Outcome.next.inj h).symm
    · simpa [hm] using (Host.Outcome.next.inj h).symm
  · rw [if_neg hl] at h
    exact .inl ⟨by simpa using hl, (takeFault_next _ _ _ _).1 h⟩

/-- DIVREM.U: DIVIDE_BY_ZERO, or quotient and remainder. -/
theorem execDivremU_next {dst : Dst} (h : execDivremU dst s = .next t) :
    ∃ a b, s.opa.value = some a ∧ s.opb.value = some b ∧
      ((b = 0 ∧ t = s.raiseFault .divideByZero (encode (.divremU dst))) ∨
        (b ≠ 0 ∧ t = s.setQuotRem dst (quotU a b) (remU a b))) := by
  obtain ⟨a, b, ha, hb, h⟩ := (withOperands_next _ _ _).1 h
  refine ⟨a, b, ha, hb, ?_⟩
  split_ifs at h with hz
  · exact .inl ⟨hz, (takeFault_next _ _ _ _).1 h⟩
  · exact .inr ⟨hz, (Host.Outcome.next.inj h).symm⟩

/-- DIVREM.S: DIVIDE_BY_ZERO, SIGNED_DIV_OVERFLOW where `SDIV_MIN_NEG1` is fault, or quotient and remainder. -/
theorem execDivremS_next {dst : Dst} (h : execDivremS dst s = .next t) :
    ∃ a b, s.opa.value = some a ∧ s.opb.value = some b ∧
      ((b = 0 ∧ t = s.raiseFault .divideByZero (encode (.divremS dst))) ∨
        (b ≠ 0 ∧ (sint a = -2 ^ 255 ∧ sint b = -1 ∧ s.config.sdivMinNeg1 = .fault) ∧
          t = s.raiseFault .signedDivOverflow (encode (.divremS dst))) ∨
        (b ≠ 0 ∧ ¬(sint a = -2 ^ 255 ∧ sint b = -1 ∧ s.config.sdivMinNeg1 = .fault) ∧
          t = s.setQuotRem dst (quotS a b) (remS a b))) := by
  obtain ⟨a, b, ha, hb, h⟩ := (withOperands_next _ _ _).1 h
  refine ⟨a, b, ha, hb, ?_⟩
  split_ifs at h with hz ho
  · exact .inl ⟨hz, (takeFault_next _ _ _ _).1 h⟩
  · exact .inr (.inl ⟨hz, ho, (takeFault_next _ _ _ _).1 h⟩)
  · exact .inr (.inr ⟨hz, ho, (Host.Outcome.next.inj h).symm⟩)

/-- FROMCOMPACT: LEN_RANGE, LENGTH_EXCEEDED, or the value with ERR = OK. -/
theorem execFromcompact_next {dst : Dst} (h : execFromcompact dst s = .next t) :
    (bufSize < s.len.toNat ∧ t = s.raiseFault .lenRange (encode (.fromcompact dst))) ∨
    (s.len.toNat ≤ bufSize ∧ 32 < s.len.toNat ∧
      t = s.setStatus (withErr ErrKind.lengthExceeded.code s.status)) ∨
    (s.len.toNat ≤ 32 ∧ ∃ bs, memRead s.buf 0 s.len.toNat = some bs ∧
      t = (s.setDst dst (wrap (valueBE bs))).setErrOk) := by
  unfold execFromcompact at h
  split_ifs at h with h1 h2
  · exact .inl ⟨h1, (takeFault_next _ _ _ _).1 h⟩
  · exact .inr (.inl ⟨by omega, h2, (reportErr_next _ _ _).1 h⟩)
  · obtain ⟨bs, hbs, h⟩ := (withBuf_next _ _ _ _).1 h
    exact .inr (.inr ⟨by omega, bs, hbs, (Host.Outcome.next.inj h).symm⟩)

end Sys2Proof.Machine
end

/-! ### What a command can do to the state (10_state.md R41) -/

section
namespace Sys2Proof.Machine

/-- Every way a command changes the state, each with the column of the matrix of R41 that allows it. `exec_effect`
ties it to `exec`; the frames and the invariant are read off it. -/
inductive CommandEffect (i : Instr) (s : State) : State → Prop
  /-- The fault state, for a cause of the command's own row of 60_exceptions.md R211, or for a term no word
  encodes. -/
  | fault (cause : FaultCause)
      (hcause : raisesCause s.config cause (.ok i) ∨ (cause = .illegalCommand ∧ i.wellFormed = false)) :
      CommandEffect i s (s.raiseFault cause (encode i))
  /-- A reported error. -/
  | error (kind : ErrKind) (herr : writesErr i = true) :
      CommandEffect i s (s.setStatus (withErr kind.code s.status))
  /-- A result in the destination. -/
  | result (dst : Dst) (v : U256) (hdst : i.dst? = some dst) (herr : writesErr i = false) :
      CommandEffect i s (s.setDst dst v)
  /-- A result and OVF. -/
  | checked (dst : Dst) (v : U256) (ovf : Bool) (hdst : i.dst? = some dst) (hovf : writesOvf i = true)
      (herr : writesErr i = false) : CommandEffect i s ((s.setDst dst v).setOvf ovf)
  /-- Quotient and remainder. -/
  | quotRem (dst : Dst) (q r : U256) (hdst : i.dst? = some dst) (hres2 : writesRes2 i = true)
      (herr : writesErr i = false) : CommandEffect i s (s.setQuotRem dst q r)
  /-- A result and ERR = OK. -/
  | parsed (dst : Dst) (v : U256) (hdst : i.dst? = some dst) (herr : writesErr i = true) :
      CommandEffect i s ((s.setDst dst v).setErrOk)
  /-- A byte string in BUF and LEN. -/
  | string (bs : List Byte) (hlen : bs.length ≤ 256) (hbuf : writesBuf i = true) (herr : writesErr i = false) :
      CommandEffect i s (s.putString bs)
  /-- A digit string in BUF and LEN, and NEG. -/
  | digits (neg : Bool) (bs : List Byte) (hlen : bs.length ≤ 256) (hbuf : writesBuf i = true)
      (hneg : writesNeg i = true) (herr : writesErr i = false) : CommandEffect i s (s.putDigits neg bs)

variable {i : Instr} {s t : State} {dst : Dst}

theorem binaryOp_effect {f : U256 → U256 → U256} (hdst : i.dst? = some dst) (herr : writesErr i = false)
    (h : binaryOp f dst s = .next t) : CommandEffect i s t := by
  obtain ⟨a, b, -, -, rfl⟩ := (binaryOp_next _ _ _ _).1 h
  exact .result dst _ hdst herr

theorem checkedOp_effect {f : U256 → U256 → U256} {ovf : U256 → U256 → U256 → Bool} (hdst : i.dst? = some dst)
    (hovf : writesOvf i = true) (herr : writesErr i = false) (h : checkedOp f ovf dst s = .next t) :
    CommandEffect i s t := by
  obtain ⟨a, b, -, -, rfl⟩ := (checkedOp_next _ _ _ _ _).1 h
  exact .checked dst _ _ hdst hovf herr

theorem unaryOp_effect {f : U256 → U256} (hdst : i.dst? = some dst) (herr : writesErr i = false)
    (h : unaryOp f dst s = .next t) : CommandEffect i s t := by
  obtain ⟨a, -, rfl⟩ := (unaryOp_next _ _ _ _).1 h
  exact .result dst _ hdst herr

theorem shiftOp_effect {f : U256 → Nat → U256} (hdst : i.dst? = some dst) (herr : writesErr i = false)
    (hcause : raisesCause s.config .shiftRange (.ok i)) (h : shiftOp f i dst s = .next t) :
    CommandEffect i s t := by
  obtain ⟨a, n, -, -, rfl⟩ := (shiftOp_next _ _ _ _ _).1 h
  split_ifs
  · exact .fault _ (.inl hcause)
  · exact .result dst _ hdst herr

theorem rotateOp_effect {f : U256 → Nat → U256} (hdst : i.dst? = some dst) (herr : writesErr i = false)
    (hcause : s.config.rotCount = .fault → raisesCause s.config .shiftRange (.ok i))
    (h : rotateOp f i dst s = .next t) : CommandEffect i s t := by
  obtain ⟨a, n, -, -, rfl⟩ := (rotateOp_next _ _ _ _ _).1 h
  split_ifs with hn
  · exact .fault _ (.inl (hcause hn.2))
  · exact .result dst _ hdst herr

theorem encodeOp_effect {f : U256 → List Byte} (hlen : ∀ a, (f a).length ≤ 256) (hbuf : writesBuf i = true)
    (herr : writesErr i = false) (h : encodeOp f s = .next t) : CommandEffect i s t := by
  obtain ⟨a, -, rfl⟩ := (encodeOp_next _ _ _).1 h
  exact .string _ (hlen a) hbuf herr

theorem decodeOp_effect {f : List Byte → Nat} (hdst : i.dst? = some dst) (herr : writesErr i = false)
    (h : decodeOp f dst s = .next t) : CommandEffect i s t := by
  obtain ⟨bs, -, rfl⟩ := (decodeOp_next _ _ _ _).1 h
  exact .result dst _ hdst herr

theorem parseOp_effect {signed : Bool} {radix : BitVec 6} (hdst : i.dst? = some dst) (herr : writesErr i = true)
    (hlen : raisesCause s.config .lenRange (.ok i))
    (hradix : ¬(2 ≤ radix.toNat ∧ radix.toNat ≤ 36) → raisesCause s.config .radixRange (.ok i))
    (h : parseOp signed i dst radix s = .next t) : CommandEffect i s t := by
  obtain ⟨-, rfl⟩ | ⟨-, hr, rfl⟩ | ⟨-, -, -, text, -, ⟨kind, -, rfl⟩ | ⟨acc, -, rfl⟩⟩ :=
    parseOp_next _ _ _ _ _ _ h
  · exact .fault _ (.inl hlen)
  · exact .fault _ (.inl (hradix hr))
  · exact .error kind herr
  · exact .parsed dst _ hdst herr

theorem execDivremU_effect (h : execDivremU dst s = .next t) : CommandEffect (.divremU dst) s t := by
  obtain ⟨a, b, -, -, ⟨-, rfl⟩ | ⟨-, rfl⟩⟩ := execDivremU_next h
  · exact .fault .divideByZero (.inl trivial)
  · exact .quotRem dst _ _ rfl rfl rfl

theorem execDivremS_effect (h : execDivremS dst s = .next t) : CommandEffect (.divremS dst) s t := by
  obtain ⟨a, b, -, -, ⟨-, rfl⟩ | ⟨-, ⟨-, -, hcfg⟩, rfl⟩ | ⟨-, -, rfl⟩⟩ := execDivremS_next h
  · exact .fault .divideByZero (.inl trivial)
  · exact .fault .signedDivOverflow (.inl hcfg)
  · exact .quotRem dst _ _ rfl rfl rfl

theorem execFmtU_effect {letters : DigitCase} {radix : BitVec 6} (h : execFmtU letters radix s = .next t) :
    CommandEffect (.fmtU letters radix) s t := by
  obtain ⟨hl, rfl⟩ | ⟨-, a, -, rfl⟩ := execFmtU_next h
  · exact .fault _ (.inr ⟨rfl, hl⟩)
  · exact .digits _ _ (length_digitString_le _ _ _) rfl rfl rfl

theorem execFmtS_effect {letters : DigitCase} {radix : BitVec 6} (h : execFmtS letters radix s = .next t) :
    CommandEffect (.fmtS letters radix) s t := by
  obtain ⟨hl, rfl⟩ | ⟨-, a, -, rfl⟩ := execFmtS_next h
  · exact .fault _ (.inr ⟨rfl, hl⟩)
  · exact .digits _ _ (length_digitString_le _ _ _) rfl rfl rfl

theorem execFromcompact_effect (h : execFromcompact dst s = .next t) :
    CommandEffect (.fromcompact dst) s t := by
  obtain ⟨-, rfl⟩ | ⟨-, -, rfl⟩ | ⟨-, bs, -, rfl⟩ := execFromcompact_next h
  · exact .fault .lenRange (.inl trivial)
  · exact .error .lengthExceeded rfl
  · exact .parsed dst _ rfl rfl

/-- A command that gives a next state gives one of its effects. -/
theorem exec_effect (h : exec i s = .next t) : CommandEffect i s t := by
  cases i with
  | add dst => exact binaryOp_effect rfl rfl h
  | addcU dst => exact checkedOp_effect rfl rfl rfl h
  | addcS dst => exact checkedOp_effect rfl rfl rfl h
  | sub dst => exact binaryOp_effect rfl rfl h
  | subbU dst => exact checkedOp_effect rfl rfl rfl h
  | subbS dst => exact checkedOp_effect rfl rfl rfl h
  | mul dst => exact binaryOp_effect rfl rfl h
  | mulwU dst => exact checkedOp_effect rfl rfl rfl h
  | mulwS dst => exact checkedOp_effect rfl rfl rfl h
  | shl dst => exact shiftOp_effect rfl rfl trivial h
  | shrU dst => exact shiftOp_effect rfl rfl trivial h
  | shrS dst => exact shiftOp_effect rfl rfl trivial h
  | rol dst => exact rotateOp_effect rfl rfl id h
  | ror dst => exact rotateOp_effect rfl rfl id h
  | clz dst => exact unaryOp_effect rfl rfl h
  | ctz dst => exact unaryOp_effect rfl rfl h
  | divremU dst => exact execDivremU_effect h
  | divremS dst => exact execDivremS_effect h
  | fmtU letters radix => exact execFmtU_effect h
  | fmtS letters radix => exact execFmtS_effect h
  | parseU dst radix => exact parseOp_effect rfl rfl trivial id h
  | parseS dst radix => exact parseOp_effect rfl rfl trivial id h
  | tobe => exact encodeOp_effect (fun a => by simp) rfl rfl h
  | tole => exact encodeOp_effect (fun a => by simp) rfl rfl h
  | frombe dst => exact decodeOp_effect rfl rfl h
  | fromle dst => exact decodeOp_effect rfl rfl h
  | tocompact =>
    refine encodeOp_effect (fun a => ?_) rfl rfl h
    have := compactLength_le s.config a
    rw [length_bytesBE]
    omega
  | fromcompact dst => exact execFromcompact_effect h

/-- A command with no string to store leaves BUF as it is. -/
theorem CommandEffect.buf_eq (he : CommandEffect i s t) (hb : writesBuf i = false) : t.buf = s.buf := by
  cases he with
  | fault cause => simp
  | error kind => simp
  | result dst v => simp
  | checked dst v ovf => simp
  | quotRem dst q r => simp
  | parsed dst v => simp
  | string bs hlen hbuf => simp [hbuf] at hb
  | digits neg bs hlen hbuf => simp [hbuf] at hb

end Sys2Proof.Machine
end

/-! ### Good states are kept by every operation -/

section
namespace Sys2Proof.Machine

theorem Reg256.wf_full (v : U256) : (Reg256.full v).Wf := fun k hk => by
  simp [full] at hk

theorem Reg256.wf_unwritten : Reg256.unwritten.Wf := fun k _ => by
  simp [unwritten, wordAt]

/-- A write of one word: that word is now written, and every other keeps its mark and its bits. -/
theorem Reg256.Wf.putWord {r : Reg256} (h : r.Wf) (k : Fin 8) (w : Word) : (r.putWord k w).Wf := fun j hj => by
  by_cases hjk : j = k
  · subst hjk
    simp [Reg256.putWord] at hj
  · have hv : (k : Nat) ≠ j := fun e => hjk (Fin.ext e.symm)
    have hjr : r.written[j] = false := by simpa [Reg256.putWord, hv] using hj
    simpa [Reg256.putWord, wordAt_putBits_other _ _ _ _ hjk] using h j hjr

variable {s : State}

theorem State.Wf.setOpa (h : s.Wf) (v : U256) : (s.setOpa v).Wf := { h with opa := Reg256.wf_full v }
theorem State.Wf.setOpb (h : s.Wf) (v : U256) : (s.setOpb v).Wf := { h with opb := Reg256.wf_full v }
theorem State.Wf.setRes (h : s.Wf) (v : U256) : (s.setRes v).Wf := { h with res := Reg256.wf_full v }
theorem State.Wf.setRes2 (h : s.Wf) (v : U256) : (s.setRes2 v).Wf := { h with res2 := Reg256.wf_full v }
theorem State.Wf.setCnt (h : s.Wf) (v : Word) : (s.setCnt v).Wf :=
  { h with cnt := fun hv => absurd hv (by simp [Reg32.full]) }
theorem State.Wf.setOpaWord (h : s.Wf) (k : Fin 8) (w : Word) : (s.setOpaWord k w).Wf :=
  { h with opa := h.opa.putWord k w }
theorem State.Wf.setOpbWord (h : s.Wf) (k : Fin 8) (w : Word) : (s.setOpbWord k w).Wf :=
  { h with opb := h.opb.putWord k w }
theorem State.Wf.setHostOps (h : s.Wf) (ops : List HostOp) : (s.setHostOps ops).Wf := { h with }
theorem State.Wf.addReply (h : s.Wf) (r : Reply) : (s.addReply r).Wf := { h with }
theorem State.Wf.setBuf (h : s.Wf) {m : List Host.Cell} (hm : bufWf m) : (s.setBuf m).Wf := { h with buf := hm }

/-- LEN stores ten bits (10_state.md R26). -/
theorem State.Wf.setLen (h : s.Wf) (v : Word) : (s.setLen v).Wf :=
  { h with
    len := by
      have := (v.extractLsb' 0 10).isLt
      rw [State.setLen_len, BitVec.toNat_setWidth]
      omega }

theorem State.Wf.setDst (h : s.Wf) (dst : Dst) (v : U256) : (s.setDst dst v).Wf := by
  cases dst with
  | opa => exact h.setOpa v
  | res => exact h.setRes v

/-- A write of STATUS that keeps the reserved bits and the fault record, and leaves a code of R33 in ERR. -/
theorem State.Wf.setStatus (h : s.Wf) {w : Word} (hres : w &&& statusReserved = s.status &&& statusReserved)
    (herr : (statusErr w).toNat ≤ 5) (hfault : statusFault w = statusFault s.status)
    (hfcause : statusFcause w = statusFcause s.status) : (s.setStatus w).Wf :=
  { h with
    reserved := hres.trans h.reserved
    err := herr
    fcause := by rw [State.setStatus_status, hfcause]; exact h.fcause
    noFault := by rw [State.setStatus_status, hfault, hfcause]; exact h.noFault
    hasFault := by rw [State.setStatus_status, hfault, hfcause]; exact h.hasFault }

theorem State.Wf.setOvf (h : s.Wf) (b : Bool) : (s.setOvf b).Wf :=
  h.setStatus (by simp) (by simpa using h.err) (by simp) (by simp)

theorem State.Wf.setNeg (h : s.Wf) (b : Bool) : (s.setNeg b).Wf :=
  h.setStatus (by simp) (by simpa using h.err) (by simp) (by simp)

theorem State.Wf.setErr (h : s.Wf) {e : BitVec 3} (he : e.toNat ≤ 5) : (s.setStatus (withErr e s.status)).Wf :=
  h.setStatus (by simp) (by simpa using he) (by simp) (by simp)

theorem State.Wf.setErrOk (h : s.Wf) : s.setErrOk.Wf := h.setErr (by decide)

/-- Fault entry leaves a record with a cause of R211 (60_exceptions.md R212). -/
theorem State.Wf.raiseFault (h : s.Wf) (cause : FaultCause) (word : Word) : (s.raiseFault cause word).Wf :=
  { h with
    reserved := by simpa using h.reserved
    err := by simpa using h.err
    fcause := by simpa using cause.code_toNat_le
    noFault := fun hf => by simp at hf
    hasFault := fun _ => by simpa using cause.code_ne_zero }

theorem State.Wf.putString (h : s.Wf) {bs : List Byte} (hlen : bs.length ≤ 256) : (s.putString bs).Wf :=
  (h.setBuf (memWrite_wf _ _ _ h.buf (by unfold bufSize; omega))).setLen _

/-- The reset input gives a good state from any state. -/
theorem State.resetInput_wf (s : State) : s.resetInput.Wf where
  opa := Reg256.wf_unwritten
  opb := Reg256.wf_unwritten
  res := Reg256.wf_unwritten
  res2 := Reg256.wf_unwritten
  cnt := fun _ => rfl
  len := by simp
  reserved := by simp
  err := by simp [statusErr]
  fcause := by simp [statusFcause]
  noFault := fun _ => ⟨by simp [statusFcause], rfl⟩
  hasFault := fun hf => by simp [statusFault] at hf
  buf := reset_buf_wf

end Sys2Proof.Machine
end

/-! ### Good states are kept by every command, access and step -/

section
namespace Sys2Proof.Machine
variable {s t : State}

theorem CommandEffect.wf {i : Instr} (h : s.Wf) (he : CommandEffect i s t) : t.Wf := by
  cases he with
  | fault cause => exact h.raiseFault cause _
  | error kind => exact h.setErr kind.code_toNat_le
  | result dst v => exact h.setDst dst v
  | checked dst v ovf => exact (h.setDst dst v).setOvf ovf
  | quotRem dst q r => exact (h.setDst dst q).setRes2 r
  | parsed dst v => exact (h.setDst dst v).setErrOk
  | string bs hlen => exact h.putString hlen
  | digits neg bs hlen => exact (h.putString hlen).setNeg neg

theorem issue_of_decode {c : Word} {i : Instr} (hf : statusFault s.status = false) (hd : decode c = .ok i) :
    issue c s = exec i s := by simp [issue, hf, hd]

theorem issue_wf {c : Word} (h : s.Wf) (ht : issue c s = .next t) : t.Wf := by
  obtain ⟨-, hi⟩ | ⟨-, -, hi⟩ | ⟨-, i, -, hi⟩ := issue_cases c s
  · obtain rfl := Host.Outcome.next.inj (hi.symm.trans ht)
    exact h
  · obtain rfl := Host.Outcome.next.inj (hi.symm.trans ht)
    exact h.raiseFault _ c
  · exact (exec_effect (hi.symm.trans ht)).wf h

/-- A BUF word stands at its own offset of the window (20_memory.md R51). -/
theorem targetOf_eq_buf {off i : Nat} (h : targetOf off = .buf i) : off = 0x200 + i := by
  unfold targetOf at h
  split_ifs at h
  obtain rfl := Target.buf.inj h
  omega

/-- A bus write keeps a good state good; a BUF word of it lies inside BUF. -/
theorem writeTarget_wf {w : Word} {target : Target} (h : s.Wf) (hbuf : ∀ i, target = .buf i → i + 4 ≤ bufSize)
    (ht : writeTarget s w target = .next t) : t.Wf := by
  obtain ⟨k, -, rfl⟩ | ⟨k, -, rfl⟩ | ⟨-, rfl⟩ | ⟨-, rfl⟩ | ⟨-, hc⟩ | ⟨i, hi, rfl⟩ | rfl :=
    writeTarget_next s t w target ht
  · exact h.setOpaWord k w
  · exact h.setOpbWord k w
  · exact h.setCnt w
  · exact h.setLen w
  · exact issue_wf h hc
  · exact h.setBuf (memWrite_wf _ _ _ h.buf (hbuf i hi))
  · exact h

theorem answer_wf {v : Option Reply} (h : s.Wf) (ht : answer s v = .next t) : t.Wf := by
  obtain ⟨r, -, rfl⟩ := (answer_next s v t).1 ht
  exact h.addReply r

theorem perform_busRead_next {width addr : Nat} (ht : perform (.busRead width addr) s = .next t) :
    ∃ off, windowOffset s.config width addr = some off ∧
      answer s ((readTarget s (targetOf off)).map Reply.word) = .next t := by
  unfold perform at ht
  cases hw : windowOffset s.config width addr with
  | none => simp [hw] at ht
  | some off => exact ⟨off, rfl, by simpa [hw] using ht⟩

theorem perform_busWrite_next {width addr : Nat} {data : Word}
    (ht : perform (.busWrite width addr data) s = .next t) :
    ∃ off, windowOffset s.config width addr = some off ∧ writeTarget s data (targetOf off) = .next t := by
  unfold perform at ht
  cases hw : windowOffset s.config width addr with
  | none => simp [hw] at ht
  | some off => exact ⟨off, rfl, by simpa [hw] using ht⟩

theorem perform_wf {op : HostOp} (h : s.Wf) (ht : perform op s = .next t) : t.Wf := by
  cases op with
  | busRead width addr =>
    obtain ⟨off, -, ha⟩ := perform_busRead_next ht
    exact answer_wf h ha
  | busWrite width addr data =>
    obtain ⟨off, hoff, hw⟩ := perform_busWrite_next ht
    obtain ⟨-, -, h4, hlt⟩ := windowOffset_some _ _ _ _ hoff
    refine writeTarget_wf h (fun i hi => ?_) hw
    have := targetOf_eq_buf hi
    unfold bufSize
    omega
  | readReg r => exact answer_wf h ht
  | writeOperand r v =>
    cases r with
    | opa => exact Host.Outcome.next.inj ht ▸ h.setOpa v
    | opb => exact Host.Outcome.next.inj ht ▸ h.setOpb v
  | writeControl r v =>
    cases r with
    | cnt => exact Host.Outcome.next.inj ht ▸ h.setCnt v
    | len => exact Host.Outcome.next.inj ht ▸ h.setLen v
    | cmd => exact issue_wf h ht
  | readBuf i => exact answer_wf h ht
  | writeBuf i b => exact Host.Outcome.next.inj ht ▸ h.setBuf (bufWrite_wf _ _ _ h.buf i.isLt)
  | reset => exact Host.Outcome.next.inj ht ▸ s.resetInput_wf

/-- A step is idle, or performs the first access presented. -/
theorem step_nil (h : s.hostOps = []) : step s = .next s := by simp [step, performNext, h]

theorem step_cons {op : HostOp} {rest : List HostOp} (h : s.hostOps = op :: rest) :
    step s = perform op (s.setHostOps rest) := by simp [step, performNext, h]

theorem step_wf (h : s.Wf) (ht : step s = .next t) : t.Wf := by
  cases hops : s.hostOps with
  | nil =>
    rw [step_nil hops] at ht
    exact Host.Outcome.next.inj ht ▸ h
  | cons op rest =>
    rw [step_cons hops] at ht
    exact perform_wf (h.setHostOps rest) ht

end Sys2Proof.Machine
end

/-! ### The statements -/

section
namespace Sys2Proof.Proofs
open Sys2Proof.Machine

/-- Settles O58: every operation keeps a good state good, and a command does nothing but one of its effects. -/
theorem stepKeepsGoodStates : Obligations.StepKeepsGoodStates := fun _ _ h ht => step_wf h ht

/-- Settles O11, from the bits of a field write. -/
theorem statusFieldWritesKeepOtherBits : Obligations.StatusFieldWritesKeepOtherBits := by
  refine ⟨fun b w j => ?_, fun b w j => ?_, fun e w j => ?_, rfl, rfl, rfl, rfl, rfl, rfl⟩
  · rw [withOvf, getLsbD_putBits]
    by_cases hj : j = 0
    · simp [hj]
    · simp [hj]
  · rw [withNeg, getLsbD_putBits]
    by_cases hj : j = 1
    · simp [hj]
    · rw [if_neg hj, if_neg (by omega)]
  · rw [withErr, getLsbD_putBits]
    congr 1
    simp only [eq_iff_iff]
    omega

/-- Settles O14. `State.reset` is the reset input at itself, so both are one case. -/
theorem resetValues : Obligations.ResetValues := by
  intro s
  refine ⟨s.resetInput, rfl, fun u hu => ?_⟩
  obtain ⟨v, rfl⟩ : ∃ v : State, u = v.resetInput := by
    simp only [List.mem_cons, List.not_mem_nil, or_false] at hu
    obtain rfl | rfl := hu
    · exact ⟨s, rfl⟩
    · exact ⟨State.reset, rfl⟩
  simp [readRegister]

/-- Settles O48, by the effects of a command. -/
theorem commandsWriteOnlyTheirRow : Obligations.CommandsWriteOnlyTheirRow := by
  intro i s t h
  cases exec_effect h with
  | fault cause => simp
  | error kind => simp
  | result dst v hdst => simp +contextual [hdst, State.setDst_opa_of_ne, State.setDst_res_of_ne]
  | checked dst v ovf hdst => simp +contextual [hdst, State.setDst_opa_of_ne, State.setDst_res_of_ne]
  | quotRem dst q r hdst hres2 =>
    simp +contextual [hdst, hres2, State.setDst_opa_of_ne, State.setDst_res_of_ne]
  | parsed dst v hdst => simp +contextual [hdst, State.setDst_opa_of_ne, State.setDst_res_of_ne]
  | string bs hlen hbuf => simp [hbuf]
  | digits neg bs hlen hbuf => simp [hbuf]

/-- Settles O49, by the effects of a command. -/
theorem statusFieldsChangeOnlyByTheirCommands : Obligations.StatusFieldsChangeOnlyByTheirCommands := by
  intro i s t h
  cases exec_effect h with
  | fault cause => simp
  | error kind herr => simp [herr]
  | result dst v => simp
  | checked dst v ovf hdst hovf => simp [hovf]
  | quotRem dst q r => simp
  | parsed dst v hdst herr => simp [herr]
  | string bs => simp
  | digits neg bs hlen hbuf hneg => simp [hneg]

/-- Settles O50: a command with no string leaves BUF, and the others store the string of their meaning. -/
theorem commandsKeepOtherBytes : Obligations.CommandsKeepOtherBytes := by
  intro s t
  refine ⟨fun i hb h j => ?_, fun i hi h j hj => ?_, fun a ha h j hj => ?_, fun a letters radix ha h j hj => ?_,
    fun a letters radix ha h j hj => ?_⟩
  · rw [(exec_effect h).buf_eq hb]
  · simp only [List.mem_cons, List.not_mem_nil, or_false] at hi
    obtain rfl | rfl := hi
    · exact bufRead_encodeOp_of_length_le (bytesBE 32) h fun a _ => by simpa using hj
    · exact bufRead_encodeOp_of_length_le (bytesLE 32) h fun a _ => by simpa using hj
  · refine bufRead_encodeOp_of_length_le (fun a => bytesBE (compactLength s.config a) a) h fun a' ha' => ?_
    obtain rfl := Option.some.inj (ha.symm.trans ha')
    simpa using hj
  · obtain ⟨-, rfl⟩ | ⟨-, a', ha', rfl⟩ := execFmtU_next h
    · rfl
    · obtain rfl := Option.some.inj (ha'.symm.trans ha)
      exact bufRead_putDigits_of_length_le _ _ _ _ hj
  · obtain ⟨-, rfl⟩ | ⟨-, a', ha', rfl⟩ := execFmtS_next h
    · rfl
    · obtain rfl := Option.some.inj (ha'.symm.trans ha)
      exact bufRead_putDigits_of_length_le _ _ _ _ hj

/-- Settles O5: the step performs the CMD write, and the word it issues decodes. -/
theorem stepRunsTheDecodedCommand : Obligations.StepRunsTheDecodedCommand := by
  intro s c i rest hf hd hops
  have hissue : issue c (s.setHostOps rest) = exec i (s.setHostOps rest) := issue_of_decode hf hd
  obtain hbus | hreg := hops
  · rw [step_cons hbus, ← hissue]
    exact perform_busWrite_cmd (s.setHostOps rest) c
  · rw [step_cons hreg, ← hissue]
    rfl

/-- Settles O60: `State.reset` is the reset input at itself, and has no fault. -/
theorem resetIsAGoodStateWithATrueRecord : Obligations.ResetIsAGoodStateWithATrueRecord :=
  ⟨State.reset.resetInput_wf, fun hf => absurd hf (by decide)⟩

end Sys2Proof.Proofs
end

/-! SUPPORT. The host interface (family 20_memory): the rules of a bus access, what each register and BUF word answers
and stores, that what is presented next changes no outcome, and the word writes of a whole register. -/

/-! ### A bus access at an offset of the window (20_memory.md R51, R55) -/

section
namespace Sys2Proof.Machine

/-- A host read that has a value adds its reply. -/
@[simp] theorem answer_some (s : State) (r : Reply) :
    answer s (some r) = .next { s with replies := r :: s.replies } := rfl

@[simp] theorem answer_none (s : State) : answer s none = .fault .unwrittenRead := rfl

/-- An access that is not 32 bits wide, or not aligned, reaches no offset. -/
theorem windowOffset_busAddr_eq_none (cfg : Config) {width off : Nat} (h : width ≠ 32 ∨ off % 4 ≠ 0) :
    windowOffset cfg width (busAddr cfg off) = none :=
  if_neg fun ⟨hw, h4, _⟩ => by
    unfold busAddr at h4
    omega

theorem perform_busRead_of_windowOffset_none {s : State} {width addr : Nat}
    (h : windowOffset s.config width addr = none) : perform (.busRead width addr) s = .fault .busError := by
  simp [perform, h]

theorem perform_busWrite_of_windowOffset_none {s : State} {width addr : Nat} (w : Word)
    (h : windowOffset s.config width addr = none) : perform (.busWrite width addr w) s = .fault .busError := by
  simp [perform, h]

variable {s : State} {off : Nat}

/-- A bus read of an aligned offset answers with its target. -/
theorem perform_busRead (hlt : off < 1024) (h4 : off % 4 = 0) :
    perform (.busRead 32 (busAddr s.config off)) s = answer s ((readTarget s (targetOf off)).map Reply.word) := by
  simp [perform, windowOffset_busAddr s.config off hlt h4]

/-- A bus write of an aligned offset writes its target. -/
theorem perform_busWrite (w : Word) (hlt : off < 1024) (h4 : off % 4 = 0) :
    perform (.busWrite 32 (busAddr s.config off) w) s = writeTarget s w (targetOf off) := by
  simp [perform, windowOffset_busAddr s.config off hlt h4]

theorem perform_busRead_of_some {v : Word} (hlt : off < 1024) (h4 : off % 4 = 0)
    (h : readTarget s (targetOf off) = some v) :
    perform (.busRead 32 (busAddr s.config off)) s = .next { s with replies := .word v :: s.replies } := by
  rw [perform_busRead hlt h4, h]
  rfl

theorem perform_busRead_of_none (hlt : off < 1024) (h4 : off % 4 = 0)
    (h : readTarget s (targetOf off) = none) :
    perform (.busRead 32 (busAddr s.config off)) s = .fault .unwrittenRead := by
  rw [perform_busRead hlt h4, h]
  rfl

/-- A register the host cannot write stands from 0x040 to 0x07C: RES and RES2. -/
theorem targetOf_res_or_res2 (h1 : 0x040 ≤ off) (h2 : off < 0x080) :
    targetOf off = .res (wordIndex off) ∨ targetOf off = .res2 (wordIndex off) := by
  unfold targetOf
  rw [if_neg (by omega), if_neg (by omega)]
  by_cases h : off < 0x060
  · exact .inl (if_pos h)
  · exact .inr (by rw [if_neg h, if_pos h2])

end Sys2Proof.Machine
end

/-! ### What registers and BUF words answer and store (20_memory.md R53, R54) -/

section
namespace Sys2Proof.Machine

theorem Reg256.word_of_written {r : Reg256} {k : Fin 8} (h : r.written[k] = true) :
    r.word k = some (wordAt r.bits k) := if_pos h

theorem Reg256.word_of_not_written {r : Reg256} {k : Fin 8} (h : r.written[k] = false) : r.word k = none :=
  if_neg (by simp [h])

theorem Reg32.value_of_written {r : Reg32} (h : r.written = true) : r.value = some r.bits := if_pos h

theorem Reg32.value_of_not_written {r : Reg32} (h : r.written = false) : r.value = none := if_neg (by simp [h])

/-- A register all of whose words are those of a value is a whole write of the value. -/
theorem Reg256.eq_full_of_words {r : Reg256} {v : U256} (h : ∀ k, r.word k = some (wordAt v k)) :
    r = Reg256.full v := by
  have hw : ∀ k : Fin 8, r.written[k] = true ∧ wordAt r.bits k = wordAt v k := fun k => by
    have hk := h k
    unfold word at hk
    split_ifs at hk with hk'
    exact ⟨hk', Option.some.inj hk⟩
  have hbits : r.bits = v := by
    apply BitVec.eq_of_getLsbD_eq
    intro i hi
    have hi' := congrArg (BitVec.getLsbD · (i % 32)) (hw ⟨i / 32, by omega⟩).2
    simpa [wordAt, Nat.mod_lt, Nat.div_add_mod] using hi'
  have hwritten : r.written = Vector.replicate 8 true :=
    Vector.ext fun i hi => by simpa using (hw ⟨i, hi⟩).1
  exact eq_full_of_value r v ((value_some r v).2 ⟨hwritten, hbits⟩)

/-- The words of the 256-bit registers stand at their offsets, each register at 32 bytes. -/
theorem readTarget_regWord (s : State) (k : Fin 8) :
    ∀ p ∈ [(0x000, s.opa), (0x020, s.opb), (0x040, s.res), (0x060, s.res2)],
      readTarget s (targetOf (p.1 + 4 * k)) = p.2.word k ∧ p.1 + 4 * k < 1024 ∧ (p.1 + 4 * k) % 4 = 0 := by
  intro p hp
  simp only [List.mem_cons, List.not_mem_nil, or_false] at hp
  obtain rfl | rfl | rfl | rfl := hp
  · exact ⟨congrArg (readTarget s) (targetOf_opa k), by omega, by omega⟩
  · exact ⟨congrArg (readTarget s) (targetOf_opb k), by omega, by omega⟩
  · exact ⟨congrArg (readTarget s) (targetOf_res k), by omega, by omega⟩
  · exact ⟨congrArg (readTarget s) (targetOf_res2 k), by omega, by omega⟩

/-- The registers that are always written stand at their offsets, and CMD reads as 0. -/
theorem readTarget_control (s : State) :
    ∀ p ∈ [(0x084, s.len), (0x088, s.status), (0x08c, 0), (0x090, s.fcmd)],
      readTarget s (targetOf p.1) = some p.2 ∧ p.1 < 1024 ∧ p.1 % 4 = 0 := by
  simp [targetOf, readTarget]

theorem bufWord_of_bytes {m : List Host.Cell} {i : Nat} {b0 b1 b2 b3 : Byte} (h0 : bufRead m i = some b0)
    (h1 : bufRead m (i + 1) = some b1) (h2 : bufRead m (i + 2) = some b2) (h3 : bufRead m (i + 3) = some b3) :
    bufWord m i = some (packWord b0 b1 b2 b3) := by
  simp [bufWord, h0, h1, h2, h3]

/-- A BUF word of which a byte is unwritten has no value (10_state.md R28). -/
theorem bufWord_of_unwritten {m : List Host.Cell} {i n : Nat} (hn : n < 4) (h : bufRead m (i + n) = none) :
    bufWord m i = none := by
  unfold bufWord
  split
  next b0 b1 b2 b3 h0 h1 h2 h3 =>
    obtain rfl | rfl | rfl | rfl : n = 0 ∨ n = 1 ∨ n = 2 ∨ n = 3 := by omega
    · simp [h0] at h
    · simp [h1] at h
    · simp [h2] at h
    · simp [h3] at h
  next => rfl

/-- Any byte read after a BUF word was written. -/
theorem bufRead_bufPutWord (m : List Host.Cell) (i : Nat) (w : Word) (n : Nat) :
    bufRead (bufPutWord m i w) n =
      if i ≤ n ∧ n < i + 4 then some (busByte w (n - i)) else bufRead m n := by
  have hbytes : bufPutWord m i w = memWrite m i ((List.range 4).map (busByte w)) := rfl
  rw [hbytes, bufRead_memWrite, List.length_map, List.length_range]
  split_ifs with hn
  · rw [List.getElem?_map, List.getElem?_range (by omega)]
    rfl
  · rfl

/-- LEN stores bits 9:0 of what is written (10_state.md R26). -/
theorem getLsbD_setLen (s : State) (w : Word) (j : Nat) :
    (s.setLen w).len.getLsbD j = if j < 10 then w.getLsbD j else false := by
  rw [State.setLen_len, BitVec.getLsbD_setWidth, BitVec.getLsbD_extractLsb']
  by_cases hj : j < 10
  · have h32 : j < 32 := by omega
    simp [hj, h32]
  · simp [hj]

end Sys2Proof.Machine
end

/-! ### A reply changes no later read (20_memory.md R57) -/

section
namespace Sys2Proof.Machine

@[simp] theorem readTarget_addReply (s : State) (r : Reply) (target : Target) :
    readTarget (s.addReply r) target = readTarget s target := by cases target <;> rfl

@[simp] theorem readRegister_addReply (s : State) (r : Reply) (name : RegName) :
    readRegister (s.addReply r) name = readRegister s name := by cases name <;> rfl

/-- What a read answers with, in either view: none where it ends the run. -/
def readReply (s : State) : HostOp → Option Reply
  | .busRead width addr =>
    (windowOffset s.config width addr).bind fun off => (readTarget s (targetOf off)).map Reply.word
  | .readReg r => readRegister s r
  | .readBuf i => (bufRead s.buf i).map Reply.byte
  | .busWrite .. | .writeOperand .. | .writeControl .. | .writeBuf .. | .reset => none

/-- The access is a read, in either view. -/
def isRead : HostOp → Bool
  | .busRead .. | .readReg _ | .readBuf _ => true
  | .busWrite .. | .writeOperand .. | .writeControl .. | .writeBuf .. | .reset => false

/-- A read gives a next state exactly where it has a reply, and then adds it and does nothing else. -/
theorem perform_read_next {op : HostOp} (hop : isRead op = true) (s t : State) :
    perform op s = .next t ↔ ∃ r, readReply s op = some r ∧ t = s.addReply r := by
  cases op with
  | busRead width addr =>
    cases hoff : windowOffset s.config width addr with
    | none => simp [perform_busRead_of_windowOffset_none hoff, readReply, hoff]
    | some off => simp [perform, readReply, hoff, answer_next]
  | readReg r => exact answer_next _ _ _
  | readBuf i => exact answer_next _ _ _
  | busWrite | writeOperand | writeControl | writeBuf | reset => simp [isRead] at hop

/-- A reply changes the reply of no later read. -/
theorem readReply_addReply (s : State) (r : Reply) (op : HostOp) :
    readReply (s.addReply r) op = readReply s op := by
  cases op <;> simp [readReply]

end Sys2Proof.Machine
end

/-! ### The accesses presented next change no outcome (20_memory.md R63) -/

section
namespace Sys2Proof.Machine

/-- An outcome with other accesses presented next. -/
def Result.setHostOps (ops : List HostOp) : Result → Result
  | .next t => .next (t.setHostOps ops)
  | .fault f => .fault f
  | .refused r => .refused r

variable (ops : List HostOp) (s : State)

theorem State.setDst_setHostOps (dst : Dst) (v : U256) :
    (s.setHostOps ops).setDst dst v = (s.setDst dst v).setHostOps ops := by cases dst <;> rfl

/-- A command that reads a value and goes on alike does the same. -/
theorem withValue_setHostOps {α : Type} {ops : List HostOp} (v : Option α) {k k' : α → Result}
    (h : ∀ x, k' x = Result.setHostOps ops (k x)) : withValue v k' = Result.setHostOps ops (withValue v k) := by
  cases v with
  | none => rfl
  | some x => exact h x

/-- A choice between outcomes that do the same. -/
theorem ite_setHostOps {ops : List HostOp} (p : Prop) [Decidable p] {r₁ r₁' r₂ r₂' : Result}
    (h₁ : r₁' = Result.setHostOps ops r₁) (h₂ : r₂' = Result.setHostOps ops r₂) :
    (if p then r₁' else r₂') = Result.setHostOps ops (if p then r₁ else r₂) := by
  split_ifs
  · exact h₁
  · exact h₂

theorem next_setDst_setHostOps (dst : Dst) (v : U256) :
    (.next ((s.setHostOps ops).setDst dst v) : Result) = Result.setHostOps ops (.next (s.setDst dst v)) :=
  congrArg _ (s.setDst_setHostOps ops dst v)

theorem takeFault_setHostOps (cause : FaultCause) (i : Instr) :
    takeFault cause i (s.setHostOps ops) = Result.setHostOps ops (takeFault cause i s) := rfl

theorem reportErr_setHostOps (kind : ErrKind) :
    reportErr kind (s.setHostOps ops) = Result.setHostOps ops (reportErr kind s) := rfl

theorem binaryOp_setHostOps (f : U256 → U256 → U256) (dst : Dst) :
    binaryOp f dst (s.setHostOps ops) = Result.setHostOps ops (binaryOp f dst s) :=
  withValue_setHostOps _ fun _ => withValue_setHostOps _ fun _ => next_setDst_setHostOps ops s dst _

theorem checkedOp_setHostOps (f : U256 → U256 → U256) (ovf : U256 → U256 → U256 → Bool) (dst : Dst) :
    checkedOp f ovf dst (s.setHostOps ops) = Result.setHostOps ops (checkedOp f ovf dst s) :=
  withValue_setHostOps _ fun _ => withValue_setHostOps _ fun _ =>
    congrArg (fun t : State => (.next (t.setOvf _) : Result)) (s.setDst_setHostOps ops dst _)

theorem unaryOp_setHostOps (f : U256 → U256) (dst : Dst) :
    unaryOp f dst (s.setHostOps ops) = Result.setHostOps ops (unaryOp f dst s) :=
  withValue_setHostOps _ fun _ => next_setDst_setHostOps ops s dst _

theorem shiftOp_setHostOps (f : U256 → Nat → U256) (i : Instr) (dst : Dst) :
    shiftOp f i dst (s.setHostOps ops) = Result.setHostOps ops (shiftOp f i dst s) :=
  withValue_setHostOps _ fun _ => withValue_setHostOps _ fun _ =>
    ite_setHostOps _ (takeFault_setHostOps ops s _ i) (next_setDst_setHostOps ops s dst _)

theorem rotateOp_setHostOps (f : U256 → Nat → U256) (i : Instr) (dst : Dst) :
    rotateOp f i dst (s.setHostOps ops) = Result.setHostOps ops (rotateOp f i dst s) :=
  withValue_setHostOps _ fun _ => withValue_setHostOps _ fun _ =>
    ite_setHostOps _ (takeFault_setHostOps ops s _ i) (next_setDst_setHostOps ops s dst _)

theorem encodeOp_setHostOps (f : U256 → List Byte) :
    encodeOp f (s.setHostOps ops) = Result.setHostOps ops (encodeOp f s) :=
  withValue_setHostOps _ fun _ => rfl

theorem decodeOp_setHostOps (f : List Byte → Nat) (dst : Dst) :
    decodeOp f dst (s.setHostOps ops) = Result.setHostOps ops (decodeOp f dst s) :=
  withValue_setHostOps _ fun _ => next_setDst_setHostOps ops s dst _

/-- A result and ERR = OK. -/
theorem next_setErrOk_setHostOps (dst : Dst) (v : U256) :
    (.next ((s.setHostOps ops).setDst dst v).setErrOk : Result) =
      Result.setHostOps ops (.next (s.setDst dst v).setErrOk) :=
  congrArg (fun t : State => (.next t.setErrOk : Result)) (s.setDst_setHostOps ops dst v)

theorem parseOp_setHostOps (signed : Bool) (i : Instr) (dst : Dst) (radix : BitVec 6) :
    parseOp signed i dst radix (s.setHostOps ops) = Result.setHostOps ops (parseOp signed i dst radix s) := by
  refine ite_setHostOps _ (takeFault_setHostOps ops s _ i) (ite_setHostOps _ (takeFault_setHostOps ops s _ i)
    (withValue_setHostOps _ fun text => ?_))
  cases parseText signed radix.toNat text with
  | error kind => exact reportErr_setHostOps ops s kind
  | ok acc => exact next_setErrOk_setHostOps ops s dst _

theorem next_setQuotRem_setHostOps (dst : Dst) (q r : U256) :
    (.next ((s.setHostOps ops).setQuotRem dst q r) : Result) =
      Result.setHostOps ops (.next (s.setQuotRem dst q r)) :=
  congrArg (fun t : State => (.next (t.setRes2 r) : Result)) (s.setDst_setHostOps ops dst q)

theorem execDivremU_setHostOps (dst : Dst) :
    execDivremU dst (s.setHostOps ops) = Result.setHostOps ops (execDivremU dst s) :=
  withValue_setHostOps _ fun _ => withValue_setHostOps _ fun _ =>
    ite_setHostOps _ (takeFault_setHostOps ops s _ _) (next_setQuotRem_setHostOps ops s dst _ _)

theorem execDivremS_setHostOps (dst : Dst) :
    execDivremS dst (s.setHostOps ops) = Result.setHostOps ops (execDivremS dst s) :=
  withValue_setHostOps _ fun _ => withValue_setHostOps _ fun _ =>
    ite_setHostOps _ (takeFault_setHostOps ops s _ _) (ite_setHostOps _ (takeFault_setHostOps ops s _ _)
      (next_setQuotRem_setHostOps ops s dst _ _))

theorem execFmtU_setHostOps (letters : DigitCase) (radix : BitVec 6) :
    execFmtU letters radix (s.setHostOps ops) = Result.setHostOps ops (execFmtU letters radix s) :=
  ite_setHostOps _ (withValue_setHostOps _ fun _ => rfl) (takeFault_setHostOps ops s _ _)

theorem execFmtS_setHostOps (letters : DigitCase) (radix : BitVec 6) :
    execFmtS letters radix (s.setHostOps ops) = Result.setHostOps ops (execFmtS letters radix s) :=
  ite_setHostOps _ (withValue_setHostOps _ fun _ => ite_setHostOps _ rfl rfl) (takeFault_setHostOps ops s _ _)

theorem execFromcompact_setHostOps (dst : Dst) :
    execFromcompact dst (s.setHostOps ops) = Result.setHostOps ops (execFromcompact dst s) :=
  ite_setHostOps _ (takeFault_setHostOps ops s _ _) (ite_setHostOps _ (reportErr_setHostOps ops s _)
    (withValue_setHostOps _ fun _ => next_setErrOk_setHostOps ops s dst _))

/-- A command does the same whatever accesses are presented after it. -/
theorem exec_setHostOps (i : Instr) : exec i (s.setHostOps ops) = Result.setHostOps ops (exec i s) := by
  cases i with
  | add dst | sub dst | mul dst => exact binaryOp_setHostOps ops s _ dst
  | addcU dst | addcS dst | subbU dst | subbS dst | mulwU dst | mulwS dst =>
    exact checkedOp_setHostOps ops s _ _ dst
  | shl dst | shrU dst | shrS dst => exact shiftOp_setHostOps ops s _ _ dst
  | rol dst | ror dst => exact rotateOp_setHostOps ops s _ _ dst
  | clz dst | ctz dst => exact unaryOp_setHostOps ops s _ dst
  | divremU dst => exact execDivremU_setHostOps ops s dst
  | divremS dst => exact execDivremS_setHostOps ops s dst
  | fmtU letters radix => exact execFmtU_setHostOps ops s letters radix
  | fmtS letters radix => exact execFmtS_setHostOps ops s letters radix
  | parseU dst radix | parseS dst radix => exact parseOp_setHostOps ops s _ _ dst radix
  | tobe | tole | tocompact => exact encodeOp_setHostOps ops s _
  | frombe dst | fromle dst => exact decodeOp_setHostOps ops s _ dst
  | fromcompact dst => exact execFromcompact_setHostOps ops s dst

theorem issue_setHostOps (c : Word) : issue c (s.setHostOps ops) = Result.setHostOps ops (issue c s) := by
  refine ite_setHostOps _ rfl ?_
  cases decode c with
  | error e => rfl
  | ok i => exact exec_setHostOps ops s i

theorem answer_setHostOps (v : Option Reply) :
    answer (s.setHostOps ops) v = Result.setHostOps ops (answer s v) := withValue_setHostOps _ fun _ => rfl

theorem readTarget_setHostOps (target : Target) : readTarget (s.setHostOps ops) target = readTarget s target := by
  cases target <;> rfl

theorem readRegister_setHostOps (r : RegName) : readRegister (s.setHostOps ops) r = readRegister s r := by
  cases r <;> rfl

theorem writeTarget_setHostOps (w : Word) (target : Target) :
    writeTarget (s.setHostOps ops) w target = Result.setHostOps ops (writeTarget s w target) := by
  cases target with
  | cmd => exact issue_setHostOps ops s w
  | opa | opb | res | res2 | cnt | len | status | fcmd | reserved | buf => rfl

/-- An access does the same whatever accesses are presented after it. -/
theorem perform_setHostOps (op : HostOp) :
    perform op (s.setHostOps ops) = Result.setHostOps ops (perform op s) := by
  cases op with
  | busRead width addr =>
    simp only [perform, State.setHostOps_config, readTarget_setHostOps]
    cases windowOffset s.config width addr with
    | none => rfl
    | some off => exact answer_setHostOps ops s _
  | busWrite width addr data =>
    simp only [perform, State.setHostOps_config]
    cases windowOffset s.config width addr with
    | none => rfl
    | some off => exact writeTarget_setHostOps ops s data _
  | readReg r =>
    simp only [perform, readRegister_setHostOps]
    exact answer_setHostOps ops s _
  | readBuf i => exact answer_setHostOps ops s _
  | writeControl r v =>
    cases r with
    | cmd => exact issue_setHostOps ops s v
    | cnt | len => rfl
  | writeOperand r v => cases r <;> rfl
  | writeBuf i b => rfl
  | reset => rfl

section
variable {M : Host.Core} {s t : M.State} {f : M.Fault} {r : M.Refusal}

/-- A run goes on from the state its first step gives, and ends where that step ends. -/
theorem run_of_step_next (h : M.step s = .next t) (k : Nat) : M.run (k + 1) s = M.run k t := by
  simp [Host.Core.run, h]

theorem run_of_step_fault (h : M.step s = .fault f) (k : Nat) : M.run (k + 1) s = .fault f := by
  simp [Host.Core.run, h]

theorem run_of_step_refused (h : M.step s = .refused r) (k : Nat) : M.run (k + 1) s = .refused r := by
  simp [Host.Core.run, h]

end

end Sys2Proof.Machine
end

/-! ### The word writes of an operand (20_memory.md R53, R69) -/

section
namespace Sys2Proof.Machine

/-- The register a whole-register host write names. -/
def State.operand (s : State) : OperandReg → Reg256
  | .opa => s.opa
  | .opb => s.opb

/-- The state with that register replaced. -/
def State.setOperand (s : State) (r : Reg256) : OperandReg → State
  | .opa => { s with opa := r }
  | .opb => { s with opb := r }

variable (s : State) (name : OperandReg)

@[simp] theorem State.setOperand_config (r : Reg256) : (s.setOperand r name).config = s.config := by
  cases name <;> rfl

@[simp] theorem State.operand_setOperand (r : Reg256) : (s.setOperand r name).operand name = r := by
  cases name <;> rfl

@[simp] theorem State.setOperand_operand : s.setOperand (s.operand name) name = s := by
  cases name <;> rfl

@[simp] theorem State.setOperand_setOperand (r r' : Reg256) :
    (s.setOperand r name).setOperand r' name = s.setOperand r' name := by
  cases name <;> rfl

theorem perform_writeOperand (v : U256) :
    perform (.writeOperand name v) s = .next (s.setOperand (Reg256.full v) name) := by
  cases name <;> rfl

/-- A bus write of word `k` of an operand writes that word of it and nothing else. -/
theorem perform_busWrite_operandWord (k : Fin 8) (w : Word) :
    perform (.busWrite 32 (busAddr s.config (regOffset name.name + 4 * k)) w) s =
      .next (s.setOperand ((s.operand name).putWord k w) name) := by
  cases name with
  | opa =>
    refine (perform_busWrite (off := 0x000 + 4 * k) w (by omega) (by omega)).trans ?_
    rw [targetOf_opa]
    rfl
  | opb =>
    refine (perform_busWrite (off := 0x020 + 4 * k) w (by omega) (by omega)).trans ?_
    rw [targetOf_opb]
    rfl

/-- A register after host writes of some words of a value, in order. -/
def Reg256.putWords (r : Reg256) (v : U256) (ks : List (Fin 8)) : Reg256 :=
  ks.foldl (fun r k => r.putWord k (wordAt v k)) r

/-- The words written are those of the value, in whatever order, and the others are as before. -/
theorem Reg256.word_putWords (r : Reg256) (v : U256) (ks : List (Fin 8)) (j : Fin 8) :
    (r.putWords v ks).word j = if j ∈ ks then some (wordAt v j) else r.word j := by
  induction ks generalizing r with
  | nil => simp [putWords]
  | cons k ks ih =>
    have hcons : r.putWords v (k :: ks) = (r.putWord k (wordAt v k)).putWords v ks := rfl
    rw [hcons, ih, word_putWord]
    by_cases hk : j = k
    · simp [hk]
    · simp [hk]

/-- Writes of all eight words are one write of the whole value. -/
theorem Reg256.putWords_eq_full (r : Reg256) (v : U256) {ks : List (Fin 8)} (h : ∀ j, j ∈ ks) :
    r.putWords v ks = Reg256.full v :=
  eq_full_of_words fun j => by rw [word_putWords, if_pos (h j)]

/-- Word writes of an operand, performed one after another. -/
theorem performAll_writeWordOps (v : U256) (ks : List (Fin 8)) :
    performAll (ks.map fun k : Fin 8 => writeWordOp s.config name v k) s =
      .next (s.setOperand ((s.operand name).putWords v ks) name) := by
  induction ks generalizing s with
  | nil => simp [performAll, Reg256.putWords]
  | cons k ks ih =>
    have hk : perform (writeWordOp s.config name v k) s = _ := perform_busWrite_operandWord s name k _
    have hks := ih (s.setOperand ((s.operand name).putWord k (wordAt v k)) name)
    rw [State.setOperand_config, State.operand_setOperand, State.setOperand_setOperand] at hks
    rw [List.map_cons, performAll, hk]
    exact hks

end Sys2Proof.Machine
end

/-! ### The statements -/

section
namespace Sys2Proof.Proofs
open Sys2Proof.Machine

/-- Settles O7, by induction on the accesses: what is presented after an access does not change what it does. -/
theorem stepsPerformAccessesInOrder : Obligations.StepsPerformAccessesInOrder := by
  intro ops
  induction ops with
  | nil => exact fun s => rfl
  | cons op ops ih =>
    intro s
    have hstep : step (s.setHostOps (op :: ops)) = Result.setHostOps ops (perform op s) := perform_setHostOps ops s op
    have hfirst : perform op (s.setHostOps []) = Result.setHostOps [] (perform op s) := perform_setHostOps [] s op
    rw [performAll, hfirst]
    cases hop : perform op s with
    | next t =>
      rw [hop] at hstep
      exact (run_of_step_next hstep _).trans (ih t)
    | fault f =>
      rw [hop] at hstep
      exact run_of_step_fault hstep _
    | refused r =>
      rw [hop] at hstep
      exact run_of_step_refused hstep _

/-- Settles O52: a read does nothing but add its reply, and no reply changes a later one. -/
theorem readsHaveNoSideEffects : Obligations.ReadsHaveNoSideEffects := by
  refine ⟨fun s t op hop ht => ?_,
    fun s => ⟨?_, fun h => ?_, fun h => ?_, ?_, fun i => ⟨fun b h => ?_, fun h => ?_⟩⟩⟩
  · have hread : isRead op = true := by obtain ⟨addr, rfl⟩ | ⟨r, rfl⟩ | ⟨i, rfl⟩ := hop <;> rfl
    obtain ⟨r, hr, rfl⟩ := (perform_read_next hread s t).1 ht
    exact ⟨r, rfl, (perform_read_next hread _ _).2 ⟨r, by rw [readReply_addReply, hr], rfl⟩⟩
  · simp +contextual [perform, readRegister]
  · simp [perform, readRegister, Reg32.value_of_written h]
  · simp [perform, readRegister, Reg32.value_of_not_written h]
  · simp [perform, readRegister]
  · simp [perform, h]
  · simp [perform, h]

/-- Settles O55: each offset's target answers with the register, and a word write is `Reg256.putWord`. -/
theorem registerWordsOnTheBus : Obligations.RegisterWordsOnTheBus := by
  intro s
  refine ⟨fun k p hp => ?_, fun h => ?_, fun h => ?_, fun p hp => ?_, fun w => ⟨?_, fun k => ⟨?_, ?_⟩⟩⟩
  · obtain ⟨hread, hlt, h4⟩ := readTarget_regWord s k p hp
    exact ⟨fun h => perform_busRead_of_some hlt h4 (hread.trans (Reg256.word_of_written h)),
      fun h => perform_busRead_of_none hlt h4 (hread.trans (Reg256.word_of_not_written h))⟩
  · exact perform_busRead_of_some (by decide) (by decide) (Reg32.value_of_written h)
  · exact perform_busRead_of_none (by decide) (by decide) (Reg32.value_of_not_written h)
  · obtain ⟨hread, hlt, h4⟩ := readTarget_control s p hp
    exact perform_busRead_of_some hlt h4 hread
  · exact perform_busWrite w (by decide) (by decide)
  · exact ⟨_, perform_busWrite_operandWord s .opa k w, fun j => s.opa.word_putWord j k w⟩
  · exact ⟨_, perform_busWrite_operandWord s .opb k w, fun j => s.opb.word_putWord j k w⟩

/-- Settles O56: the target of the offset is the BUF word whose first byte is `4 * j`. -/
theorem bufWordsOnTheBus : Obligations.BufWordsOnTheBus := by
  intro s j hj
  have hread : readTarget s (targetOf (0x200 + 4 * j)) = bufWord s.buf (4 * j) := by rw [targetOf_buf]; rfl
  have hlt : 0x200 + 4 * j < 1024 := by omega
  have h4 : (0x200 + 4 * j) % 4 = 0 := by omega
  refine ⟨fun b0 b1 b2 b3 h0 h1 h2 h3 => ?_, fun n hn h => ?_, fun w => ?_⟩
  · exact perform_busRead_of_some hlt h4 (hread.trans (bufWord_of_bytes h0 h1 h2 h3))
  · exact perform_busRead_of_none hlt h4 (hread.trans (bufWord_of_unwritten hn h))
  · refine ⟨bufPutWord s.buf (4 * j) w, ?_, bufRead_bufPutWord s.buf (4 * j) w⟩
    rw [perform_busWrite w hlt h4, targetOf_buf]
    rfl

/-- Settles O57: each of the eight words is written in some place of the order, and every word of the register is
then that of the value. -/
theorem wholeWriteIsEightWordWrites : Obligations.WholeWriteIsEightWordWrites := by
  intro s r v order horder
  have hlt : ∀ k ∈ order, k < 8 := fun k hk => List.mem_range.1 (horder.subset hk)
  obtain ⟨ks, rfl⟩ : ∃ ks : List (Fin 8), order = ks.map Fin.val :=
    ⟨order.pmap Fin.mk hlt, by simp [List.map_pmap]⟩
  have hall : ∀ j, j ∈ ks := fun j => by
    have hj : (j : Nat) ∈ ks.map Fin.val := horder.symm.subset (List.mem_range.2 j.isLt)
    obtain ⟨k, hk, hkj⟩ := List.mem_map.1 hj
    exact Fin.ext hkj ▸ hk
  rw [List.map_map, perform_writeOperand, ← (s.operand r).putWords_eq_full v hall]
  exact performAll_writeWordOps s r v ks

/-- Settles O53: such an access reaches no offset of the window. -/
theorem misalignedOrNarrowAccessIsBusError : Obligations.MisalignedOrNarrowAccessIsBusError := by
  intro s width off w _ hbad
  have hnone : windowOffset s.config width (busAddr s.config off) = none := windowOffset_busAddr_eq_none _ hbad
  exact ⟨perform_busRead_of_windowOffset_none hnone, perform_busWrite_of_windowOffset_none w hnone⟩

/-- Settles O54, by the target of each offset. -/
theorem accessesWithNoTarget : Obligations.AccessesWithNoTarget := by
  intro s w
  refine ⟨fun off h1 h2 h4 => ⟨?_, ?_⟩, fun off hoff => ?_, ?_, s.setLen w, ?_, getLsbD_setLen s w, rfl, ?_⟩
  · exact perform_busRead_of_some (by omega) h4 (by rw [targetOf_reserved off h1 h2]; rfl)
  · rw [perform_busWrite w (by omega) h4, targetOf_reserved off h1 h2]
    rfl
  · rw [perform_busWrite w (by omega) (by omega)]
    obtain ⟨h1, h2, -⟩ | rfl | rfl := hoff
    · obtain h | h := targetOf_res_or_res2 h1 h2
      · rw [h]; rfl
      · rw [h]; rfl
    · rfl
    · rfl
  · exact perform_busRead_of_some (by decide) (by decide) rfl
  · exact perform_busWrite w (by decide) (by decide)
  · exact perform_busRead_of_some (s := s.setLen w) (by decide) (by decide) rfl

end Sys2Proof.Proofs
end

/-! SUPPORT. The encoding (family 30_encoding): the fields of a command word, the rows of the opcode table, and the
decode check as one equivalence, from which both round trips follow. -/

/-! ### The fields of a command word (30_encoding.md R81) -/

section
namespace Sys2Proof

/-- A bit is the field of width 1 at its place. -/
theorem ofBool_getLsbD {n : Nat} (v : BitVec n) (k : Nat) : BitVec.ofBool (v.getLsbD k) = v.extractLsb' k 1 := by
  apply BitVec.eq_of_getLsbD_eq
  intro j hj
  obtain rfl : j = 0 := by omega
  simp

section
variable (op : BitVec 8) (ip uc : Bool) (radix : BitVec 6)

@[simp] theorem extractOp_commandWord : (commandWord op ip uc radix).extractLsb' 0 8 = op :=
  BitVec.extractLsb'_append_eq_right

theorem ipBit_commandWord : (commandWord op ip uc radix).getLsbD 8 = ip := by
  refine BitVec.getLsbD_append.trans (BitVec.getLsbD_append.trans ?_)
  simp

theorem ucBit_commandWord : (commandWord op ip uc radix).getLsbD 9 = uc := by
  refine BitVec.getLsbD_append.trans (BitVec.getLsbD_append.trans (BitVec.getLsbD_append.trans ?_))
  simp

@[simp] theorem extractRadix_commandWord : (commandWord op ip uc radix).extractLsb' 16 6 = radix :=
  (BitVec.extractLsb'_append_eq_of_le (by decide)).trans <|
  (BitVec.extractLsb'_append_eq_of_le (by decide)).trans <|
  (BitVec.extractLsb'_append_eq_of_le (by decide)).trans <|
  (BitVec.extractLsb'_append_eq_of_le (by decide)).trans BitVec.extractLsb'_append_eq_right

@[simp] theorem extractReservedLow_commandWord : (commandWord op ip uc radix).extractLsb' 10 6 = 0 :=
  (BitVec.extractLsb'_append_eq_of_le (by decide)).trans <|
  (BitVec.extractLsb'_append_eq_of_le (by decide)).trans <|
  (BitVec.extractLsb'_append_eq_of_le (by decide)).trans BitVec.extractLsb'_append_eq_right

@[simp] theorem extractReservedHigh_commandWord : (commandWord op ip uc radix).extractLsb' 22 10 = 0 :=
  (BitVec.extractLsb'_append_eq_of_le (by decide)).trans <|
  (BitVec.extractLsb'_append_eq_of_le (by decide)).trans <|
  (BitVec.extractLsb'_append_eq_of_le (by decide)).trans <|
  (BitVec.extractLsb'_append_eq_of_le (by decide)).trans <|
  (BitVec.extractLsb'_append_eq_of_le (by decide)).trans BitVec.extractLsb'_eq_self

end

/-- A word whose reserved bits are zero is made of its four fields. -/
theorem commandWord_fields {c : Word} (hlow : c.extractLsb' 10 6 = 0) (hhigh : c.extractLsb' 22 10 = 0) :
    commandWord (c.extractLsb' 0 8) (c.getLsbD 8) (c.getLsbD 9) (c.extractLsb' 16 6) = c := by
  rw [commandWord, ofBool_getLsbD, ofBool_getLsbD, ← hlow, ← hhigh,
    BitVec.extractLsb'_append_extractLsb'_eq_extractLsb' (start₁ := 16) (len₁ := 6) rfl,
    BitVec.extractLsb'_append_extractLsb'_eq_extractLsb' (start₁ := 10) (len₁ := 6) rfl,
    BitVec.extractLsb'_append_extractLsb'_eq_extractLsb' (start₁ := 9) (len₁ := 1) rfl,
    BitVec.extractLsb'_append_extractLsb'_eq_extractLsb' (start₁ := 8) (len₁ := 1) rfl,
    BitVec.extractLsb'_append_extractLsb'_eq_extractLsb' (start₁ := 0) (len₁ := 8) rfl]
  exact BitVec.extractLsb'_eq_self

end Sys2Proof
end

/-! ### The rows of the opcode table (30_encoding.md R83, R89) -/

section
namespace Sys2Proof

/-- The commands of a row: those its free fields make. -/
def OpRow.Makes (i : Instr) : OpRow → Prop
  | .freeIp mk => ∃ dst, mk dst = i
  | .noField j => j = i
  | .fmt mk => ∃ letters radix, mk letters radix = i
  | .parse mk => ∃ dst radix, mk dst radix = i

/-- A row stands at an OP value: each of its commands has that OP, the fields of the row's class, and no constraint
on them but that of FMT. -/
def OpRow.StandsAt (op : BitVec 8) : OpRow → Prop
  | .freeIp mk => ∀ dst, (mk dst).opcode = op ∧ (mk dst).ip = decide (dst = .opa) ∧ (mk dst).uc = false ∧
      (mk dst).radix = 0 ∧ (mk dst).wellFormed = true
  | .noField i => i.opcode = op ∧ i.ip = false ∧ i.uc = false ∧ i.radix = 0 ∧ i.wellFormed = true
  | .fmt mk => ∀ letters radix, (mk letters radix).opcode = op ∧ (mk letters radix).ip = false ∧
      (mk letters radix).uc = decide (letters = .upper) ∧ (mk letters radix).radix = radix ∧
      (mk letters radix).wellFormed = fmtLegal letters radix
  | .parse mk => ∀ dst radix, (mk dst radix).opcode = op ∧ (mk dst radix).ip = decide (dst = .opa) ∧
      (mk dst radix).uc = false ∧ (mk dst radix).radix = radix ∧ (mk dst radix).wellFormed = true

/-- The row an OP value selects stands at it. -/
theorem opRow_standsAt {op : BitVec 8} {row : OpRow} (h : opRow op.toNat = some row) : row.StandsAt op := by
  have hop : op = BitVec.ofNat 8 op.toNat := by simp
  rw [hop]
  generalize op.toNat = n at h
  unfold opRow at h
  split at h <;> cases h <;>
    simp [OpRow.StandsAt, Instr.opcode, Instr.ip, Instr.uc, Instr.radix, Instr.dst?, Instr.fmtFields?,
      Instr.parseRadix?, Instr.wellFormed]

/-- Every command stands in the row its OP value selects. -/
theorem exists_opRow_makes (i : Instr) : ∃ row, opRow i.opcode.toNat = some row ∧ row.Makes i := by
  cases i with
  | add dst | addcU dst | addcS dst | sub dst | subbU dst | subbS dst | mul dst | mulwU dst | mulwS dst
  | shl dst | shrU dst | shrS dst | rol dst | ror dst | clz dst | ctz dst | divremU dst | divremS dst
  | frombe dst | fromle dst | fromcompact dst => exact ⟨_, rfl, dst, rfl⟩
  | fmtU letters radix | fmtS letters radix => exact ⟨_, rfl, letters, radix, rfl⟩
  | parseU dst radix | parseS dst radix => exact ⟨_, rfl, dst, radix, rfl⟩
  | tobe | tole | tocompact => exact ⟨_, rfl, rfl⟩

/-- The rows whose word has a destination (R84). -/
def OpRow.takesIp : OpRow → Bool
  | .freeIp _ | .parse _ => true
  | .noField _ | .fmt _ => false

/-- The FMT rows (R85). -/
def OpRow.isFmt : OpRow → Bool
  | .fmt _ => true
  | .freeIp _ | .noField _ | .parse _ => false

/-- The rows whose word has a radix (R86). -/
def OpRow.takesRadix : OpRow → Bool
  | .fmt _ | .parse _ => true
  | .freeIp _ | .noField _ => false

/-- Each OP value of R83 selects a row. -/
theorem opRow_isSome_of_assigned : ∀ n ∈ Machine.assignedOps, (opRow n).isSome = true := by decide

/-- An OP value that selects a row is one of R83, and R88 names the class of its row by lists of OP values. -/
theorem opRow_class {n : Nat} {row : OpRow} (h : opRow n = some row) : n ∈ Machine.assignedOps ∧
    (n ∈ [0x30, 0x31, 0x40, 0x41, 0x44] ↔ row.takesIp = false) ∧ (n ∈ [0x30, 0x31] ↔ row.isFmt = true) ∧
    (n ∈ [0x30, 0x31, 0x38, 0x39] ↔ row.takesRadix = true) := by
  unfold opRow at h
  split at h <;> cases h <;> decide

end Sys2Proof
end

/-! ### The field checks of a row (30_encoding.md R88, conditions 3 to 6) -/

section
namespace Sys2Proof

@[simp] theorem dstOfIp_decide (dst : Dst) : dstOfIp (decide (dst = .opa)) = dst := by cases dst <;> rfl

@[simp] theorem dstOfIp_eq_opa (ip : Bool) : dstOfIp ip = .opa ↔ ip = true := by cases ip <;> decide

@[simp] theorem caseOfUc_decide (letters : DigitCase) : caseOfUc (decide (letters = .upper)) = letters := by
  cases letters <;> rfl

@[simp] theorem caseOfUc_eq_upper (uc : Bool) : caseOfUc uc = .upper ↔ uc = true := by cases uc <;> decide

section
variable {ip uc : Bool} {radix : BitVec 6} {i : Instr}

/-- What each class of row checks, and the command it makes. -/
theorem decodeFields_freeIp_eq_ok {mk : Dst → Instr} : decodeFields (.freeIp mk) ip uc radix = .ok i ↔
    uc = false ∧ radix = 0 ∧ mk (dstOfIp ip) = i := by
  unfold decodeFields
  split_ifs <;> simp_all

theorem decodeFields_noField_eq_ok {j : Instr} : decodeFields (.noField j) ip uc radix = .ok i ↔
    ip = false ∧ uc = false ∧ radix = 0 ∧ j = i := by
  unfold decodeFields
  split_ifs <;> simp_all

theorem decodeFields_fmt_eq_ok {mk : DigitCase → BitVec 6 → Instr} : decodeFields (.fmt mk) ip uc radix = .ok i ↔
    ip = false ∧ fmtLegal (caseOfUc uc) radix = true ∧ mk (caseOfUc uc) radix = i := by
  unfold decodeFields
  split_ifs <;> simp_all [fmtLegal]

theorem decodeFields_parse_eq_ok {mk : Dst → BitVec 6 → Instr} : decodeFields (.parse mk) ip uc radix = .ok i ↔
    uc = false ∧ mk (dstOfIp ip) radix = i := by
  unfold decodeFields
  split_ifs <;> simp_all

/-- The field checks of a row pass for the fields of its well-formed commands, and only for them. -/
theorem decodeFields_eq_ok {op : BitVec 8} {row : OpRow} (hrow : row.StandsAt op) :
    decodeFields row ip uc radix = .ok i ↔
      row.Makes i ∧ i.wellFormed = true ∧ i.opcode = op ∧ i.ip = ip ∧ i.uc = uc ∧ i.radix = radix := by
  cases row with
  | freeIp mk =>
    rw [decodeFields_freeIp_eq_ok]
    constructor
    · rintro ⟨rfl, rfl, rfl⟩
      simp [OpRow.Makes, hrow (dstOfIp ip)]
    · rintro ⟨⟨dst, rfl⟩, -, -, rfl, rfl, rfl⟩
      simp [hrow dst]
  | noField j =>
    obtain ⟨hop, hip, huc, hradix, hwf⟩ := hrow
    rw [decodeFields_noField_eq_ok]
    constructor
    · rintro ⟨rfl, rfl, rfl, rfl⟩
      exact ⟨rfl, hwf, hop, hip, huc, hradix⟩
    · rintro ⟨rfl, -, -, rfl, rfl, rfl⟩
      exact ⟨hip, huc, hradix, rfl⟩
  | fmt mk =>
    rw [decodeFields_fmt_eq_ok]
    constructor
    · rintro ⟨rfl, hlegal, rfl⟩
      simp [OpRow.Makes, hrow (caseOfUc uc) radix, hlegal]
    · rintro ⟨⟨letters, r, rfl⟩, hwf, -, rfl, rfl, rfl⟩
      obtain ⟨-, hip, huc, hradix, hlegal⟩ := hrow letters r
      simp [hip, huc, hradix, ← hlegal, hwf]
  | parse mk =>
    rw [decodeFields_parse_eq_ok]
    constructor
    · rintro ⟨rfl, rfl⟩
      simp [OpRow.Makes, hrow (dstOfIp ip) radix]
    · rintro ⟨⟨dst, r, rfl⟩, -, -, rfl, rfl, rfl⟩
      simp [hrow dst r]

/-- The field checks of a row pass exactly where conditions 3 to 6 of R88 all fail. -/
theorem exists_decodeFields_eq_ok (row : OpRow) : (∃ i, decodeFields row ip uc radix = .ok i) ↔
    ¬((ip = true ∧ row.takesIp = false) ∨ (uc = true ∧ (¬row.isFmt = true ∨ radix.toNat ≠ 16)) ∨
      (row.isFmt = true ∧ radix.toNat ∉ [2, 8, 10, 16]) ∨ (¬row.takesRadix = true ∧ radix.toNat ≠ 0)) := by
  cases row with
  | freeIp mk =>
    simp [decodeFields_freeIp_eq_ok, OpRow.takesIp, OpRow.isFmt, OpRow.takesRadix, ← BitVec.toNat_inj]
  | noField j =>
    simp [decodeFields_noField_eq_ok, OpRow.takesIp, OpRow.isFmt, OpRow.takesRadix, ← BitVec.toNat_inj]
  | fmt mk =>
    have hlegal : fmtLegal (caseOfUc uc) radix = true ↔
        radix.toNat ∈ [2, 8, 10, 16] ∧ (uc = true → radix.toNat = 16) := by
      cases uc <;> simp [fmtLegal, fmtRadixLegal, fmtCaseLegal, caseOfUc]
    simp only [decodeFields_fmt_eq_ok, hlegal, exists_and_left, exists_eq', OpRow.takesIp, OpRow.isFmt,
      OpRow.takesRadix, ← Bool.not_eq_true]
    tauto
  | parse mk => simp [decodeFields_parse_eq_ok, OpRow.takesIp, OpRow.isFmt, OpRow.takesRadix]

end
end Sys2Proof
end

/-! ### The decode check (30_encoding.md R88, R89) -/

section
namespace Sys2Proof
variable {c : Word} {i : Instr}

/-- A word decodes where its OP selects a row, no reserved bit is set, and the field checks of the row pass. -/
theorem decode_eq_ok_iff_fields : decode c = .ok i ↔ ∃ row, opRow (c.extractLsb' 0 8).toNat = some row ∧
    c.extractLsb' 10 6 = 0 ∧ c.extractLsb' 22 10 = 0 ∧
    decodeFields row (c.getLsbD 8) (c.getLsbD 9) (c.extractLsb' 16 6) = .ok i := by
  unfold decode
  cases opRow (c.extractLsb' 0 8).toNat with
  | none => simp
  | some row =>
    split_ifs with hres
    · simp only [false_iff]
      rintro ⟨-, -, hlow, hhigh, -⟩
      exact hres.elim (· hlow) (· hhigh)
    · obtain ⟨hlow, hhigh⟩ := not_or.1 hres
      simp [not_not.1 hlow, not_not.1 hhigh]

/-- A word decodes to a command exactly where the command is well-formed and the word is its encoding. -/
theorem decode_eq_ok : decode c = .ok i ↔ i.wellFormed = true ∧ encode i = c := by
  rw [decode_eq_ok_iff_fields]
  constructor
  · rintro ⟨row, hrow, hlow, hhigh, hfields⟩
    obtain ⟨-, hwf, hop, hip, huc, hradix⟩ := (decodeFields_eq_ok (opRow_standsAt hrow)).1 hfields
    rw [encode, hop, hip, huc, hradix]
    exact ⟨hwf, commandWord_fields hlow hhigh⟩
  · rintro ⟨hwf, rfl⟩
    obtain ⟨row, hrow, hmakes⟩ := exists_opRow_makes i
    have hfields : decodeFields row i.ip i.uc i.radix = .ok i :=
      (decodeFields_eq_ok (opRow_standsAt hrow)).2 ⟨hmakes, hwf, rfl, rfl, rfl, rfl⟩
    refine ⟨row, ?_⟩
    rw [encode, extractOp_commandWord, ipBit_commandWord, ucBit_commandWord, extractRadix_commandWord]
    exact ⟨hrow, extractReservedLow_commandWord .., extractReservedHigh_commandWord .., hfields⟩

/-- The six conditions of R88 hold of exactly the words that do not decode. -/
theorem exists_decode_eq_ok : (∃ i, decode c = .ok i) ↔ ¬Machine.illegalWord c := by
  simp only [decode_eq_ok_iff_fields, Machine.illegalWord]
  generalize (c.extractLsb' 0 8).toNat = op
  cases hrow : opRow op with
  | none =>
    have hop : op ∉ Machine.assignedOps := fun h => by simpa [hrow] using opRow_isSome_of_assigned op h
    simp [hop]
  | some row =>
    obtain ⟨hop, hip, hfmt, hradix⟩ := opRow_class hrow
    rw [hip, hfmt, hradix]
    have hlow : c.extractLsb' 10 6 = 0 ↔ (c.extractLsb' 10 6).toNat = 0 := BitVec.toNat_inj.symm
    have hhigh : c.extractLsb' 22 10 = 0 ↔ (c.extractLsb' 22 10).toNat = 0 := BitVec.toNat_inj.symm
    simp only [Option.some.injEq, exists_eq_left', exists_and_left, exists_decodeFields_eq_ok, hop, hlow, hhigh,
      not_true_eq_false, false_or, not_or, ne_eq, not_not]

end Sys2Proof
end

/-! ### The statements -/

section
namespace Sys2Proof.Proofs
open Sys2Proof.Machine

/-- Settles O1, from the fields of a command word and the row each command stands in. -/
theorem decodeOfEncode : Obligations.DecodeOfEncode := fun _ hwf => decode_eq_ok.2 ⟨hwf, rfl⟩

/-- Settles O2, from the fields of a word and the row its OP value selects. -/
theorem encodeOfDecode : Obligations.EncodeOfDecode := fun _ _ hd => decode_eq_ok.1 hd

/-- Settles O3: a CMD write in either view issues its word, and the words that do not decode are the illegal ones. -/
theorem decodeCheckRaisesIllegalCommand : Obligations.DecodeCheckRaisesIllegalCommand := by
  intro c s hf op hop
  have hissue : perform op s = issue c s := by
    simp only [List.mem_cons, List.not_mem_nil, or_false] at hop
    obtain rfl | rfl := hop
    · rfl
    · exact perform_busWrite_cmd s c
  rw [hissue]
  refine ⟨fun hillegal => ?_, fun hlegal => ?_⟩
  · obtain ⟨hfault, -⟩ | ⟨-, -, hnext⟩ | ⟨-, i, hi, -⟩ := issue_cases c s
    · exact absurd (hf.symm.trans hfault) (by decide)
    · exact hnext
    · exact absurd hillegal (exists_decode_eq_ok.1 ⟨i, hi⟩)
  · obtain ⟨i, hi⟩ := exists_decode_eq_ok.2 hlegal
    exact ⟨i, hi, issue_of_decode hf hi⟩

/-- Settles O4: the decoder, the encoder, the mnemonics and the texts evaluated on each word of the two tables. -/
theorem exampleWordsDecode : Obligations.ExampleWordsDecode := by
  unfold Obligations.ExampleWordsDecode
  exact ⟨by decide, by decide⟩

end Sys2Proof.Proofs
end

/-! SUPPORT. Arithmetic (family 40_arithmetic): wrapping keeps sums, differences and products, the sign rules of the
checked commands decide the exact signed results, and the word-pair methods give the whole-value results. -/

/-! ### Wrapping, and the results of the arithmetic commands (40_arithmetic.md R101) -/

section
namespace Sys2Proof.Machine

theorem wrap_add (x y : Int) : wrap (x + y) = wrap x + wrap y := BitVec.ofInt_add x y

theorem wrap_sub (x y : Int) : wrap (x - y) = wrap x - wrap y := by
  rw [Int.sub_eq_add_neg, wrap_add, BitVec.sub_eq_add_neg]
  exact congrArg (wrap x + ·) BitVec.ofInt_neg

theorem wrap_mul (x y : Int) : wrap (x * y) = wrap x * wrap y := BitVec.ofInt_mul x y

/-- A value is the pattern of its signed reading. -/
theorem wrap_sint (v : U256) : wrap (sint v) = v := by
  rw [sint_eq_toInt]
  exact BitVec.ofInt_toInt

/-- Multiples of 2^256 are lost by wrapping. -/
theorem wrap_add_mul_two_pow (x k : Int) : wrap (x + 2 ^ 256 * k) = wrap x := by
  have h : wrap (2 ^ 256) = 0 := by decide
  rw [wrap_add, wrap_mul, h, zero_mul, add_zero]

theorem addWrap_eq (a b : U256) : addWrap a b = a + b := by
  rw [addWrap, wrap_add, wrap_uint, wrap_uint]

theorem subWrap_eq (a b : U256) : subWrap a b = a - b := by
  rw [subWrap, wrap_sub, wrap_uint, wrap_uint]

theorem mulWrapU_eq (a b : U256) : mulWrapU a b = a * b := by
  rw [mulWrapU, wrap_mul, wrap_uint, wrap_uint]

theorem mulWrapS_eq (a b : U256) : mulWrapS a b = a * b := by
  rw [mulWrapS, wrap_mul, wrap_sint, wrap_sint]

end Sys2Proof.Machine
end

/-! ### OVF by the exact result (40_arithmetic.md R104, R107, R109, R110) -/

section
namespace Sys2Proof.Machine

/-- The sign rule of ADDC.S decides that the exact signed sum is out of range. -/
theorem ovfAddS_add (a b : U256) :
    ovfAddS a b (a + b) = decide (¬(-2 ^ 255 ≤ a.toInt + b.toInt ∧ a.toInt + b.toInt ≤ 2 ^ 255 - 1)) := by
  have hsign : ovfAddS a b (a + b) = a.saddOverflow b := by
    simp [ovfAddS, BitVec.saddOverflow_eq, BitVec.msb_eq_getLsbD_last, bne]
  rw [hsign, BitVec.saddOverflow, ← Bool.decide_or, decide_eq_decide]
  omega

/-- The sign rule of SUBB.S decides that the exact signed difference is out of range. -/
theorem ovfSubS_sub (a b : U256) :
    ovfSubS a b (a - b) = decide (¬(-2 ^ 255 ≤ a.toInt - b.toInt ∧ a.toInt - b.toInt ≤ 2 ^ 255 - 1)) := by
  have hsign : ovfSubS a b (a - b) = a.ssubOverflow b := by
    rw [ovfSubS, BitVec.ssubOverflow_eq]
    simp only [BitVec.msb_eq_getLsbD_last, Nat.reduceSub]
    cases a.getLsbD 255 <;> cases b.getLsbD 255 <;> simp
  rw [hsign, BitVec.ssubOverflow, ← Bool.decide_or, decide_eq_decide]
  omega

/-- The upper half of the exact unsigned product is not zero exactly where the product is out of range. -/
theorem ovfMulU_eq (a b r : U256) : ovfMulU a b r = decide (2 ^ 256 ≤ a.toNat * b.toNat) := by
  rw [ovfMulU, decide_eq_decide, Nat.div_ne_zero_iff]
  simp [uint]

theorem ovfMulS_eq (a b r : U256) :
    ovfMulS a b r = decide (¬(-2 ^ 255 ≤ a.toInt * b.toInt ∧ a.toInt * b.toInt ≤ 2 ^ 255 - 1)) := by
  rw [ovfMulS, sint_eq_toInt, sint_eq_toInt, decide_not]

end Sys2Proof.Machine
end

/-! ### Commands on written operands (40_arithmetic.md R100) -/

section
namespace Sys2Proof.Machine
variable {f : U256 → U256 → U256} {ovf : U256 → U256 → U256 → Bool} {dst : Dst} {s : State} {a b v : U256}

/-- A wrapping command on written operands stores its result. -/
theorem binaryOp_of_value (ha : s.opa.value = some a) (hb : s.opb.value = some b) (hv : f a b = v) :
    binaryOp f dst s = .next (s.setDst dst v) :=
  (binaryOp_next _ _ _ _).2 ⟨a, b, ha, hb, by rw [hv]⟩

/-- A checked command on written operands stores its result and OVF. -/
theorem checkedOp_of_value {o : Bool} (ha : s.opa.value = some a) (hb : s.opb.value = some b) (hv : f a b = v)
    (ho : ovf a b v = o) : checkedOp f ovf dst s = .next ((s.setDst dst v).setOvf o) :=
  (checkedOp_next _ _ _ _ _).2 ⟨a, b, ha, hb, by rw [hv, ho]⟩

end Sys2Proof.Machine
end

/-! ### The word pair (00_scope.md R11) and its methods (40_arithmetic.md R101, R111) -/

section
namespace Sys2Proof.Machine

theorem uint_ofPair (hi lo : BitVec 128) : uint (ofPair hi lo) = hi.toNat * 2 ^ 128 + lo.toNat := by
  rw [uint, ofPair, BitVec.toNat_append, Nat.shiftLeft_eq, Nat.mul_comm,
    ← Nat.two_pow_add_eq_or_of_lt lo.isLt, Nat.mul_comm]

theorem ofPair_hiWord_loWord (a : U256) : ofPair (hiWord a) (loWord a) = a := by
  rw [ofPair, hiWord, loWord, BitVec.extractLsb'_append_extractLsb'_eq_extractLsb' (by decide)]
  exact BitVec.extractLsb'_eq_self

/-- The unsigned reading in the base 2^128 of the word pair. -/
theorem uint_eq_words (a : U256) : uint a = (hiWord a).toNat * 2 ^ 128 + (loWord a).toNat := by
  rw [← uint_ofPair, ofPair_hiWord_loWord]

/-- A word pair whose high word takes in what its low word cannot hold, as a carry or a borrow, is the
pattern of the whole value. -/
theorem ofPair_ofInt_carry (h l : Int) :
    ofPair (BitVec.ofInt 128 (h + l / 2 ^ 128)) (BitVec.ofInt 128 l) = wrap (h * 2 ^ 128 + l) := by
  have hread : (uint (ofPair (BitVec.ofInt 128 (h + l / 2 ^ 128)) (BitVec.ofInt 128 l)) : Int) =
      uint (wrap (h * 2 ^ 128 + l)) := by
    rw [uint_wrap, uint_ofPair]
    push_cast [BitVec.toNat_ofInt]
    omega
  exact BitVec.eq_of_toNat_eq (Int.ofNat.inj hread)

/-- The same for a carry, which is a natural number. -/
theorem ofPair_ofNat_carry (h l : Nat) :
    ofPair (BitVec.ofNat 128 (h + l / 2 ^ 128)) (BitVec.ofNat 128 l) = wrap (h * 2 ^ 128 + l : Nat) := by
  rw [← BitVec.ofInt_natCast, ← BitVec.ofInt_natCast]
  exact_mod_cast ofPair_ofInt_carry h l

/-- The carry of two 128-bit words, as a quotient. -/
theorem carry_toNat {l : Nat} (h : l < 2 ^ 129) : (decide (2 ^ 128 ≤ l)).toNat = l / 2 ^ 128 := by
  by_cases hc : 2 ^ 128 ≤ l
  · rw [decide_eq_true hc, Bool.toNat_true]
    omega
  · rw [decide_eq_false hc, Bool.toNat_false]
    omega

/-- The borrow of two 128-bit words, as a quotient rounded down. -/
theorem borrow_toNat {d : Int} (hlo : -2 ^ 128 ≤ d) (hhi : d < 2 ^ 128) :
    ((decide (d < 0)).toNat : Int) = -(d / 2 ^ 128) := by
  by_cases hb : d < 0
  · rw [decide_eq_true hb, Bool.toNat_true]
    omega
  · rw [decide_eq_false hb, Bool.toNat_false]
    omega

theorem addChain_eq (a b : U256) :
    addChain a b = (wrap (uint a + uint b), decide (2 ^ 256 ≤ uint a + uint b)) := by
  have hcarry := carry_toNat (l := (loWord a).toNat + (loWord b).toNat) (by omega)
  simp only [addChain, hcarry, uint_eq_words a, uint_eq_words b, Prod.mk.injEq, decide_eq_decide]
  constructor
  · rw [ofPair_ofNat_carry]
    refine congrArg wrap ?_
    push_cast
    ring
  · omega

theorem subChain_eq (a b : U256) :
    subChain a b = (wrap ((uint a : Int) - uint b), decide (uint a < uint b)) := by
  have hborrow := borrow_toNat (d := (loWord a).toNat - (loWord b).toNat) (by omega) (by omega)
  simp only [subChain, hborrow, uint_eq_words a, uint_eq_words b, Prod.mk.injEq, decide_eq_decide]
  constructor
  · rw [Int.sub_neg, ofPair_ofInt_carry]
    refine congrArg wrap ?_
    push_cast
    ring
  · omega

/-- The four partial products of two 128-bit words add up to the exact product. -/
theorem partialProducts_eq (x y : BitVec 128) : partialProducts x y = x.toNat * y.toNat := by
  have hx := Nat.div_add_mod x.toNat (2 ^ 64)
  have hy := Nat.div_add_mod y.toNat (2 ^ 64)
  conv_rhs => rw [← hx, ← hy]
  simp only [partialProducts]
  ring

/-- The word-pair product drops only multiples of 2^256: the product of the high words, and what the cross
products carry out of the high word. -/
theorem mulPair_eq (a b : U256) : mulPair a b = wrap (uint a * uint b) := by
  simp only [mulPair, partialProducts_eq, uint_eq_words a, uint_eq_words b]
  generalize (hiWord a).toNat = ah, (loWord a).toNat = al, (hiWord b).toNat = bh, (loWord b).toNat = bl
  have hcross := Nat.div_add_mod (ah * bl + al * bh) (2 ^ 128)
  rw [← wrap_add_mul_two_pow _ (ah * bh + ((ah * bl + al * bh) / 2 ^ 128 : Nat))]
  refine congrArg wrap ?_
  zify at hcross
  push_cast at hcross ⊢
  linear_combination 2 ^ 128 * hcross

end Sys2Proof.Machine
end

/-! ### The statements -/

section
namespace Sys2Proof.Proofs
open Sys2Proof.Machine

/-- Settles O16: the result is the wrapped sum, and OVF is the carry out or the sign rule. -/
theorem additionResults : Obligations.AdditionResults := fun _ _ a b ha hb =>
  ⟨binaryOp_of_value ha hb (addWrap_eq a b), checkedOp_of_value ha hb (addWrap_eq a b) rfl,
    checkedOp_of_value ha hb (addWrap_eq a b) (ovfAddS_add a b)⟩

/-- Settles O17: the result is the wrapped difference, and OVF is the borrow out or the sign rule. -/
theorem subtractionResults : Obligations.SubtractionResults := fun _ _ a b ha hb =>
  ⟨binaryOp_of_value ha hb (subWrap_eq a b), checkedOp_of_value ha hb (subWrap_eq a b) rfl,
    checkedOp_of_value ha hb (subWrap_eq a b) (ovfSubS_sub a b)⟩

/-- Settles O18: the wrapped product is the same from either reading, and OVF is by the exact product. -/
theorem multiplicationResults : Obligations.MultiplicationResults := fun _ _ a b ha hb =>
  ⟨binaryOp_of_value ha hb (mulWrapU_eq a b), checkedOp_of_value ha hb (mulWrapU_eq a b) (ovfMulU_eq a b _),
    checkedOp_of_value ha hb (mulWrapS_eq a b) (ovfMulS_eq a b _)⟩

/-- Settles O19, from the two chains. -/
theorem wordPairChainsGiveWholeValueResults : Obligations.WordPairChainsGiveWholeValueResults := fun a b =>
  ⟨addChain_eq a b, subChain_eq a b⟩

/-- Settles O20, from the four partial products and the bits the truncation drops. -/
theorem wordPairProductGivesTruncatedProduct : Obligations.WordPairProductGivesTruncatedProduct := fun a b =>
  ⟨mulPair_eq a b, partialProducts_eq⟩

end Sys2Proof.Proofs
end

/-! SUPPORT. Bit operations (family 41_bitops): the shifts and rotates as operations on bit vectors, and the zero
counts as the length of a run of zero bits, which the bits determine. -/

/-! ### Commands on written operands and a count (41_bitops.md R130, R131) -/

section
namespace Sys2Proof.Machine
variable {dst : Dst} {s : State} {a v : U256} {n : Word}

/-- A command on a written OPA stores its result. -/
theorem unaryOp_of_value {f : U256 → U256} (ha : s.opa.value = some a) :
    unaryOp f dst s = .next (s.setDst dst (f a)) :=
  (unaryOp_next _ _ _ _).2 ⟨a, ha, rfl⟩

section
variable {f : U256 → Nat → U256} {i : Instr} (ha : s.opa.value = some a) (hn : s.cnt.value = some n)
include ha hn

theorem shiftOp_of_lt (hlt : n.toNat < 256) (hv : f a n.toNat = v) :
    shiftOp f i dst s = .next (s.setDst dst v) :=
  (shiftOp_next _ _ _ _ _).2 ⟨a, n, ha, hn, by rw [if_neg (Nat.not_le.2 hlt), hv]⟩

theorem shiftOp_of_ge (hge : 256 ≤ n.toNat) : shiftOp f i dst s = .next (s.raiseFault .shiftRange (encode i)) :=
  (shiftOp_next _ _ _ _ _).2 ⟨a, n, ha, hn, (if_pos hge).symm⟩

theorem rotateOp_of_fault (hge : 256 ≤ n.toNat) (hcfg : s.config.rotCount = .fault) :
    rotateOp f i dst s = .next (s.raiseFault .shiftRange (encode i)) :=
  (rotateOp_next _ _ _ _ _).2 ⟨a, n, ha, hn, (if_pos ⟨hge, hcfg⟩).symm⟩

/-- A rotate that does not fault uses the count modulo 256. -/
theorem rotateOp_of_no_fault (hok : n.toNat < 256 ∨ s.config.rotCount = .modulo) :
    rotateOp f i dst s = .next (s.setDst dst (f a (n.toNat % 256))) := by
  refine (rotateOp_next _ _ _ _ _).2 ⟨a, n, ha, hn, (if_neg ?_).symm⟩
  rintro ⟨hge, hfault⟩
  obtain hlt | hmod := hok
  · omega
  · rw [hfault] at hmod
    cases hmod

end
end Sys2Proof.Machine
end

/-! ### Shifts and rotates of the bits (41_bitops.md R132 to R136) -/

section
namespace Sys2Proof.Machine

theorem shiftLeft_eq (a : U256) (n : Nat) : shiftLeft a n = a <<< n := by
  rw [shiftLeft, wrap, BitVec.ofInt_natCast, ← Nat.shiftLeft_eq]
  rfl

theorem shiftRightU_eq (a : U256) (n : Nat) : shiftRightU a n = a >>> n := by
  have hlt : uint a / 2 ^ n < 2 ^ 256 := (Nat.div_le_self _ _).trans_lt a.isLt
  refine BitVec.eq_of_toNat_eq ((uint_wrap_of_lt _ hlt).trans ?_)
  rw [BitVec.toNat_ushiftRight, Nat.shiftRight_eq_div_pow, uint]

/-- The quotient of the signed reading, rounded down, is the shift that fills with the sign bit. -/
theorem shiftRightS_eq (a : U256) (n : Nat) : shiftRightS a n = a.sshiftRight n := by
  rw [shiftRightS, sint_eq_toInt, BitVec.sshiftRight_eq, Int.shiftRight_eq_div_pow,
    Int.fdiv_eq_ediv_of_nonneg _ (Int.natCast_nonneg _)]
  rfl

/-- Two shifts and an or, and the identity for 0, are the rotate of a bit vector. -/
theorem rotateLeft_eq (a : U256) {n : Nat} (h : n < 256) : rotateLeft a n = a.rotateLeft n := by
  rw [rotateLeft, BitVec.rotateLeft_def, Nat.mod_eq_of_lt h, shiftLeft_eq, shiftRightU_eq]
  split_ifs with h0
  · subst h0
    simp [BitVec.ushiftRight_eq_zero]
  · rfl

theorem rotateRight_eq (a : U256) {n : Nat} (h : n < 256) : rotateRight a n = a.rotateRight n := by
  rw [rotateRight, BitVec.rotateRight_def, Nat.mod_eq_of_lt h, shiftLeft_eq, shiftRightU_eq]
  split_ifs with h0
  · subst h0
    simp
  · rfl

/-- Bit i of a rotate left by n is bit (i - n) mod 256 (41_bitops.md R135). -/
theorem getLsbD_rotateLeft_mod (a : U256) (n : Nat) {i : Nat} (hi : i < 256) :
    (rotateLeft a (n % 256)).getLsbD i = a.getLsbD ((i + 256 - n % 256) % 256) := by
  have hn : n % 256 < 256 := Nat.mod_lt _ (by decide)
  rw [rotateLeft_eq a hn, BitVec.getLsbD_rotateLeft, Nat.mod_mod]
  by_cases h : i < n % 256
  · rw [decide_eq_true h, cond_true, show (i + 256 - n % 256) % 256 = 256 - n % 256 + i by omega]
  · rw [decide_eq_false h, cond_false, decide_eq_true hi, Bool.true_and,
      show (i + 256 - n % 256) % 256 = i - n % 256 by omega]

/-- Bit i of a rotate right by n is bit (i + n) mod 256 (41_bitops.md R136). -/
theorem getLsbD_rotateRight_mod (a : U256) (n : Nat) {i : Nat} (hi : i < 256) :
    (rotateRight a (n % 256)).getLsbD i = a.getLsbD ((i + n) % 256) := by
  have hn : n % 256 < 256 := Nat.mod_lt _ (by decide)
  rw [rotateRight_eq a hn, BitVec.getLsbD_rotateRight, Nat.mod_mod]
  by_cases h : i < 256 - n % 256
  · rw [decide_eq_true h, cond_true, show (i + n) % 256 = n % 256 + i by omega]
  · rw [decide_eq_false h, cond_false, decide_eq_true hi, Bool.true_and,
      show (i + n) % 256 = i - (256 - n % 256) by omega]

end Sys2Proof.Machine
end

/-! ### Zero counts as runs of zero bits (41_bitops.md R137, R138, R139) -/

section
namespace Sys2Proof.Machine

/-- The first `k` of the bits `p 0` to `p (w - 1)` are 0, and the next one, if there is one, is 1. -/
structure IsZeroRun (p : Nat → Bool) (w k : Nat) : Prop where
  le : k ≤ w
  zeros : ∀ j < k, p j = false
  next : k < w → p k = true

variable {p q r : Nat → Bool} {w m n k l : Nat}

theorem isZeroRun_of_zeros (hz : ∀ j < w, p j = false) : IsZeroRun p w w :=
  ⟨le_rfl, hz, fun h => absurd h (lt_irrefl w)⟩

/-- The bits determine the length of the run. -/
theorem IsZeroRun.unique (hk : IsZeroRun p w k) (hl : IsZeroRun p w l) : k = l := by
  obtain hlt | heq | hgt := lt_trichotomy k l
  · cases (hl.zeros k hlt).symm.trans (hk.next (hlt.trans_le hl.le))
  · exact heq
  · cases (hk.zeros l hgt).symm.trans (hl.next (hgt.trans_le hk.le))

/-- The run is the whole length exactly where every bit is 0. -/
theorem IsZeroRun.eq_iff (hk : IsZeroRun p w k) : k = w ↔ ∀ j < w, p j = false := by
  constructor
  · rintro rfl
    exact hk.zeros
  · exact fun hz => hk.unique (isZeroRun_of_zeros hz)

/-- The run of two blocks of bits one after another: the second block counts only where the first is all 0. -/
theorem IsZeroRun.append (hk : IsZeroRun q m k) (hl : IsZeroRun r n l)
    (hp : ∀ j, p j = if m ≤ j then r (j - m) else q j) : IsZeroRun p (m + n) (if k = m then m + l else k) := by
  have hfirst : ∀ j < m, p j = q j := fun j hj => (hp j).trans (if_neg (Nat.not_le.2 hj))
  have hsecond : ∀ j, m ≤ j → p j = r (j - m) := fun j hj => (hp j).trans (if_pos hj)
  split_ifs with h
  · subst h
    refine ⟨Nat.add_le_add_left hl.le k, fun j hj => ?_, fun hlt => ?_⟩
    · by_cases hjk : j < k
      · exact (hfirst j hjk).trans (hk.zeros j hjk)
      · exact (hsecond j (by omega)).trans (hl.zeros (j - k) (by omega))
    · rw [hsecond _ (by omega), Nat.add_sub_cancel_left]
      exact hl.next (by omega)
  · have hkm : k < m := lt_of_le_of_ne hk.le h
    exact ⟨hk.le.trans (Nat.le_add_right m n), fun j hj => (hfirst j (hj.trans hkm)).trans (hk.zeros j hj),
      fun _ => (hfirst k hkm).trans (hk.next hkm)⟩

/-- The first set bit, searched for from bit 0 up, ends the run. -/
theorem isZeroRun_find? (p : Nat → Bool) (w : Nat) : IsZeroRun p w (((List.range w).find? p).getD w) := by
  cases h : (List.range w).find? p with
  | none =>
    have hz := List.find?_range_eq_none.1 h
    exact isZeroRun_of_zeros fun j hj => by simpa using hz j hj
  | some k =>
    obtain ⟨hpk, hmem, hz⟩ := List.find?_range_eq_some.1 h
    exact ⟨(List.mem_range.1 hmem).le, fun j hj => by simpa using hz j hj, fun _ => hpk⟩

/-- The index of the highest set bit ends the run of leading zeros. -/
theorem isZeroRun_log2 (v : BitVec w) : IsZeroRun v.getMsbD w (if v = 0 then w else w - 1 - Nat.log2 v.toNat) := by
  split_ifs with h
  · subst h
    exact isZeroRun_of_zeros fun j _ => BitVec.getMsbD_zero
  · have h0 : v.toNat ≠ 0 := fun e => h (BitVec.eq_of_toNat_eq e)
    have hlog : Nat.log2 v.toNat < w := (Nat.log2_lt h0).2 v.isLt
    refine ⟨by omega, fun j hj => ?_, fun hlt => ?_⟩
    · have hhigh : v.toNat < 2 ^ (w - 1 - j) := (Nat.log2_lt h0).1 (by omega)
      rw [BitVec.getMsbD, BitVec.getLsbD, Nat.testBit_lt_two_pow hhigh, Bool.and_false]
    · rw [BitVec.getMsbD, decide_eq_true hlt, Bool.true_and,
        show w - 1 - (w - 1 - Nat.log2 v.toNat) = Nat.log2 v.toNat by omega]
      exact Nat.testBit_log2 h0

theorem isZeroRun_leadingZeros (a : U256) : IsZeroRun a.getMsbD 256 (leadingZeros a) := isZeroRun_log2 a

theorem isZeroRun_trailingZeros (a : U256) : IsZeroRun a.getLsbD 256 (trailingZeros a) := by
  rw [trailingZeros]
  split_ifs with h
  · subst h
    exact isZeroRun_of_zeros fun j _ => BitVec.getLsbD_zero
  · exact isZeroRun_find? _ _

theorem isZeroRun_clz128 (v : BitVec 128) : IsZeroRun v.getMsbD 128 (clz128 v) := isZeroRun_log2 v

theorem isZeroRun_ctz128 (v : BitVec 128) : IsZeroRun v.getLsbD 128 (ctz128 v) := isZeroRun_find? _ _

/-- Only the zero word has 128 leading zeros. -/
theorem clz128_eq_iff (v : BitVec 128) : clz128 v = 128 ↔ v = 0 := by
  rw [(isZeroRun_clz128 v).eq_iff]
  exact ⟨fun h => BitVec.eq_of_getMsbD_eq fun i hi => by simp [h i hi], fun h => by simp [h]⟩

/-- Only the zero word has 128 trailing zeros. -/
theorem ctz128_eq_iff (v : BitVec 128) : ctz128 v = 128 ↔ v = 0 := by
  rw [(isZeroRun_ctz128 v).eq_iff]
  exact ⟨fun h => BitVec.eq_of_getLsbD_eq fun i hi => by simp [h i hi], fun h => by simp [h]⟩

/-- From the top, the high word's bits come first. -/
theorem getMsbD_eq_words (a : U256) (j : Nat) :
    a.getMsbD j = if 128 ≤ j then (loWord a).getMsbD (j - 128) else (hiWord a).getMsbD j := by
  conv_lhs => rw [← ofPair_hiWord_loWord a]
  exact BitVec.getMsbD_append

/-- From the bottom, the low word's bits come first. -/
theorem getLsbD_eq_words (a : U256) (j : Nat) :
    a.getLsbD j = if 128 ≤ j then (hiWord a).getLsbD (j - 128) else (loWord a).getLsbD j := by
  conv_lhs => rw [← ofPair_hiWord_loWord a]
  rw [ofPair, BitVec.getLsbD_append, ← ite_not]
  simp only [Nat.not_lt]

theorem isZeroRun_clzPair (a : U256) : IsZeroRun a.getMsbD 256 (clzPair a) := by
  have hpair : clzPair a = if clz128 (hiWord a) = 128 then 128 + clz128 (loWord a) else clz128 (hiWord a) := by
    simp only [clzPair, clz128_eq_iff, ne_eq, ite_not]
  rw [hpair]
  exact (isZeroRun_clz128 (hiWord a)).append (isZeroRun_clz128 (loWord a)) (getMsbD_eq_words a)

theorem isZeroRun_ctzPair (a : U256) : IsZeroRun a.getLsbD 256 (ctzPair a) := by
  have hpair : ctzPair a = if ctz128 (loWord a) = 128 then 128 + ctz128 (hiWord a) else ctz128 (loWord a) := by
    simp only [ctzPair, ctz128_eq_iff, ne_eq, ite_not]
  rw [hpair]
  exact (isZeroRun_ctz128 (loWord a)).append (isZeroRun_ctz128 (hiWord a)) (getLsbD_eq_words a)

theorem clzPair_eq (a : U256) : clzPair a = leadingZeros a :=
  (isZeroRun_clzPair a).unique (isZeroRun_leadingZeros a)

theorem ctzPair_eq (a : U256) : ctzPair a = trailingZeros a :=
  (isZeroRun_ctzPair a).unique (isZeroRun_trailingZeros a)

end Sys2Proof.Machine
end

/-! ### The statements -/

section
namespace Sys2Proof.Proofs
open Sys2Proof.Machine

/-- Settles O21: each shift of the reading is the shift of the bits. -/
theorem shiftResults : Obligations.ShiftResults := fun _ _ a n ha hn hlt =>
  ⟨shiftOp_of_lt ha hn hlt (shiftLeft_eq a n.toNat), shiftOp_of_lt ha hn hlt (shiftRightU_eq a n.toNat),
    shiftOp_of_lt ha hn hlt (shiftRightS_eq a n.toNat)⟩

/-- Settles O22, by the count check of a shift and the two forms of that of a rotate. -/
theorem countOutOfRangeFaults : Obligations.CountOutOfRangeFaults := by
  refine ⟨rfl, fun dst s a n ha hn hge => ⟨fun i hi => ?_, fun hfault i hi => ?_, fun hmod => ?_⟩⟩
  · simp only [List.mem_cons, List.not_mem_nil, or_false] at hi
    obtain rfl | rfl | rfl := hi <;> exact shiftOp_of_ge ha hn hge
  · simp only [List.mem_cons, List.not_mem_nil, or_false] at hi
    obtain rfl | rfl := hi <;> exact rotateOp_of_fault ha hn hge hfault
  · exact ⟨rotateOp_of_no_fault ha hn (.inr hmod), rotateOp_of_no_fault ha hn (.inr hmod)⟩

/-- Settles O23: a rotate that does not fault is the rotate of the bits by the count modulo 256. -/
theorem rotateResults : Obligations.RotateResults := fun _ _ a n ha hn hok =>
  ⟨⟨_, rotateOp_of_no_fault ha hn hok, fun _ hi => getLsbD_rotateLeft_mod a n.toNat hi⟩,
    ⟨_, rotateOp_of_no_fault ha hn hok, fun _ hi => getLsbD_rotateRight_mod a n.toNat hi⟩⟩

/-- Settles O24: the counts are the runs of zero bits from either end. -/
theorem zeroCountResults : Obligations.ZeroCountResults := fun _ _ a ha =>
  have hclz := isZeroRun_leadingZeros a
  have hctz := isZeroRun_trailingZeros a
  ⟨⟨leadingZeros a, hclz.le, unaryOp_of_value ha, hclz.zeros, hclz.next⟩,
    ⟨trailingZeros a, hctz.le, unaryOp_of_value ha, hctz.zeros, hctz.next⟩⟩

/-- Settles O25: the word-pair counts are runs of the same bits, and the zero cases are all 0. -/
theorem wordPairZeroCountsAgree : Obligations.WordPairZeroCountsAgree :=
  ⟨fun a => ⟨clzPair_eq a, ctzPair_eq a⟩, (clz128_eq_iff 0).2 rfl, (ctz128_eq_iff 0).2 rfl, clzPair_eq 0,
    ctzPair_eq 0⟩

end Sys2Proof.Proofs
end

/-! SUPPORT. Division (family 42_division): the results are those of unsigned and truncating signed division, and each
round of the restoring method keeps quotient and remainder of the dividend bits it has taken in. -/

/-! ### Commands on written operands (42_division.md R150, R153, R154) -/

section
namespace Sys2Proof.Machine
variable {dst : Dst} {s : State} {a b : U256}

theorem withOperands_of_value (ha : s.opa.value = some a) (hb : s.opb.value = some b) (k : U256 → U256 → Result) :
    withOperands s k = k a b := by
  rw [withOperands, ha, hb, withValue_some, withValue_some]

/-- The operands for which `SDIV_MIN_NEG1 = fault` makes DIVREM.S fault (42_division.md R154). -/
def SdivFaults (s : State) (a b : U256) : Prop :=
  sint a = -2 ^ 255 ∧ sint b = -1 ∧ s.config.sdivMinNeg1 = .fault

section
variable (ha : s.opa.value = some a) (hb : s.opb.value = some b)
include ha hb

theorem execDivremU_of_zero (hz : b = 0) :
    execDivremU dst s = .next (s.raiseFault .divideByZero (encode (.divremU dst))) :=
  (withOperands_of_value ha hb _).trans (if_pos hz)

theorem execDivremU_of_ne_zero (hz : b ≠ 0) :
    execDivremU dst s = .next (s.setQuotRem dst (quotU a b) (remU a b)) :=
  (withOperands_of_value ha hb _).trans (if_neg hz)

theorem execDivremS_of_zero (hz : b = 0) :
    execDivremS dst s = .next (s.raiseFault .divideByZero (encode (.divremS dst))) :=
  (withOperands_of_value ha hb _).trans (if_pos hz)

theorem execDivremS_of_sdivFaults (hz : b ≠ 0) (hf : SdivFaults s a b) :
    execDivremS dst s = .next (s.raiseFault .signedDivOverflow (encode (.divremS dst))) :=
  (withOperands_of_value ha hb _).trans ((if_neg hz).trans (if_pos hf))

theorem execDivremS_of_not_sdivFaults (hz : b ≠ 0) (hf : ¬SdivFaults s a b) :
    execDivremS dst s = .next (s.setQuotRem dst (quotS a b) (remS a b)) :=
  (withOperands_of_value ha hb _).trans ((if_neg hz).trans (if_neg hf))

end
end Sys2Proof.Machine
end

/-! ### The results as operations on bit vectors (42_division.md R151, R152) -/

section
namespace Sys2Proof.Machine

theorem quotU_eq (a b : U256) : quotU a b = a / b := by
  rw [quotU, wrap, BitVec.ofInt_natCast, BitVec.udiv_def, uint, uint]

theorem remU_eq (a b : U256) : remU a b = a % b := by
  have hrem : (uint a : Int) - (uint a / uint b * uint b : Nat) = (uint a % uint b : Nat) := by
    rw [sub_eq_iff_eq_add, ← Int.natCast_add, Nat.mod_add_div']
  rw [remU, hrem, wrap, BitVec.ofInt_natCast, BitVec.umod_def, uint, uint]

/-- The quotient of the magnitudes, negative when the signs differ, is the quotient rounded toward zero. -/
theorem signed_magnitude_quotient (x y : Int) :
    (if decide (x < 0) != decide (y < 0) then -((x.natAbs / y.natAbs : Nat) : Int) else (x.natAbs / y.natAbs : Nat)) =
      x.tdiv y := by
  rw [Int.ofNat_tdiv, Int.natCast_natAbs, Int.natCast_natAbs]
  rcases lt_or_ge x 0 with hx | hx <;> rcases lt_or_ge y 0 with hy | hy
  · simp [hx, hy, abs_of_neg, Int.neg_tdiv, Int.tdiv_neg]
  · simp [hx, hy.not_gt, abs_of_neg hx, abs_of_nonneg hy, Int.neg_tdiv]
  · simp [hx.not_gt, hy, abs_of_nonneg hx, abs_of_neg hy, Int.tdiv_neg]
  · simp [hx.not_gt, hy.not_gt, abs_of_nonneg hx, abs_of_nonneg hy]

/-- The remainder of the magnitudes, with the dividend's sign, is the remainder of rounding toward zero. -/
theorem signed_magnitude_remainder (x y : Int) :
    (if x < 0 then -((x.natAbs % y.natAbs : Nat) : Int) else (x.natAbs % y.natAbs : Nat)) = x.tmod y := by
  have habs : |x|.tmod |y| = |x|.tmod y := by
    obtain hy | hy := abs_choice y
    · rw [hy]
    · rw [hy, Int.tmod_neg]
  rw [Int.ofNat_tmod, Int.natCast_natAbs, Int.natCast_natAbs, habs]
  split_ifs with hx
  · rw [abs_of_neg hx, Int.neg_tmod, neg_neg]
  · rw [abs_of_nonneg (not_lt.1 hx)]

theorem quotS_eq (a b : U256) : quotS a b = a.sdiv b := by
  refine BitVec.eq_of_toInt_eq ?_
  rw [quotS, quotMagnitude, signed_magnitude_quotient, wrap, BitVec.toInt_ofInt, BitVec.toInt_sdiv, sint_eq_toInt,
    sint_eq_toInt]

theorem remMagnitude_eq (a b : U256) : remMagnitude a b = (sint a).natAbs % (sint b).natAbs :=
  Nat.mod_eq_sub_div_mul.symm

theorem remS_eq (a b : U256) : remS a b = a.srem b := by
  rw [remS, remMagnitude_eq, signed_magnitude_remainder, sint_eq_toInt, sint_eq_toInt, ← BitVec.toInt_srem]
  exact BitVec.ofInt_toInt

/-- The quotient rounded toward zero is representable but for -2^255 by -1. -/
theorem toInt_quotS {a b : U256} (h : ¬(a.toInt = -2 ^ 255 ∧ b.toInt = -1)) :
    (quotS a b).toInt = a.toInt.tdiv b.toInt := by
  rw [quotS_eq]
  refine BitVec.toInt_sdiv_of_ne_or_ne a b (not_and_or.1 fun ⟨hmin, hneg⟩ => h ?_)
  subst hmin hneg
  decide

theorem toInt_remS (a b : U256) : (remS a b).toInt = a.toInt.tmod b.toInt := by
  rw [remS_eq, BitVec.toInt_srem]

/-- The wrapped results of -2^255 by -1 (42_division.md R154). -/
theorem quotS_smin_allOnes : quotS smin (BitVec.allOnes 256) = smin := by
  rw [quotS_eq]
  exact BitVec.intMin_sdiv_neg_one

theorem remS_smin_allOnes : remS smin (BitVec.allOnes 256) = 0 := by decide

/-- A remainder of rounding toward zero is 0 or has the dividend's sign. -/
theorem tmod_eq_zero_or_neg_iff (x y : Int) : x.tmod y = 0 ∨ (x.tmod y < 0 ↔ x < 0) := by
  have hsign := Int.sign_tmod x y
  split_ifs at hsign
  · exact .inl (Int.sign_eq_zero_iff_zero.1 hsign)
  · rw [← Int.sign_eq_neg_one_iff_neg, hsign, Int.sign_eq_neg_one_iff_neg]
    exact .inr Iff.rfl

end Sys2Proof.Machine
end

/-! ### The restoring division (42_division.md R155) -/

section
namespace Sys2Proof.Machine

/-- The dividend bits from `i` up are the bits above `i` with bit `i` appended. -/
theorem uint_div_two_pow (a : U256) (i : Nat) :
    uint a / 2 ^ i = 2 * (uint a / 2 ^ (i + 1)) + (a.getLsbD i).toNat := by
  rw [BitVec.getLsbD, Nat.toNat_testBit, pow_succ, ← Nat.div_div_eq_div_mul]
  exact (Nat.div_add_mod _ 2).symm

/-- A round takes quotient and remainder of `x` to those of `x` with the next dividend bit appended. -/
theorem divRound_div_mod (a : U256) {b : Nat} (hb : 0 < b) (i x : Nat) :
    divRound a b i (x / b, x % b) =
      ((2 * x + (a.getLsbD i).toNat) / b, (2 * x + (a.getLsbD i).toNat) % b) := by
  have hbit := Bool.toNat_le (a.getLsbD i)
  have hr := Nat.mod_lt x hb
  have hsplit : 2 * x + (a.getLsbD i).toNat = 2 * (x % b) + (a.getLsbD i).toNat + b * (2 * (x / b)) := by
    have hx := Nat.mod_add_div x b
    rw [Nat.mul_left_comm]
    omega
  rw [hsplit, Nat.add_mul_div_left _ _ hb, Nat.add_mul_mod_self_left, divRound]
  split_ifs with h
  · have hlt : 2 * (x % b) + (a.getLsbD i).toNat - b < b := by omega
    rw [Nat.div_eq_sub_div hb h, Nat.mod_eq_sub_mod h, Nat.div_eq_of_lt hlt, Nat.mod_eq_of_lt hlt, Nat.zero_add,
      Nat.add_comm]
  · rw [Nat.div_eq_of_lt (not_le.1 h), Nat.mod_eq_of_lt (not_le.1 h), Nat.zero_add]

/-- From quotient and remainder of the dividend bits from `n` up, the rounds below `n` reach those of the dividend. -/
theorem divRounds_div_mod (a : U256) {b : Nat} (hb : 0 < b) (n : Nat) :
    divRounds a b n (uint a / 2 ^ n / b, uint a / 2 ^ n % b) = (uint a / b, uint a % b) := by
  induction n with
  | zero => rw [divRounds, pow_zero, Nat.div_one]
  | succ n ih => rw [divRounds, divRound_div_mod a hb, ← uint_div_two_pow, ih]

theorem divBitwise_eq (a : U256) {b : U256} (hb : b ≠ 0) : divBitwise a b = (uint a / uint b, uint a % uint b) := by
  have hpos : 0 < uint b := Nat.pos_of_ne_zero fun h => hb (BitVec.eq_of_toNat_eq h)
  have hnone : uint a / 2 ^ 256 = 0 := Nat.div_eq_of_lt a.isLt
  have hrounds := divRounds_div_mod a hpos 256
  rwa [hnone, Nat.zero_div, Nat.zero_mod] at hrounds

end Sys2Proof.Machine
end

/-! ### The statements -/

section
namespace Sys2Proof.Proofs
open Sys2Proof.Machine

/-- Settles O26: quotient and remainder of the unsigned readings. -/
theorem unsignedDivisionLaw : Obligations.UnsignedDivisionLaw := by
  intro dst s a b ha hb hz
  refine ⟨quotU a b, remU a b, execDivremU_of_ne_zero ha hb hz, ?_, ?_⟩
  · rw [quotU_eq, remU_eq, BitVec.toNat_udiv, BitVec.toNat_umod, Nat.div_add_mod']
  · rw [remU_eq]
    exact BitVec.umod_lt a ((BitVec.pos_iff_ne_zero b).2 hz)

/-- Settles O27: quotient and remainder of rounding the signed readings toward zero, which do not overflow here. -/
theorem signedDivisionLaw : Obligations.SignedDivisionLaw := by
  intro dst s a b ha hb hz hmin
  have hok : ¬SdivFaults s a b := fun ⟨hsmin, hneg, _⟩ => hmin ⟨sint_eq_toInt a ▸ hsmin, sint_eq_toInt b ▸ hneg⟩
  have hpos : 0 < b.toInt.natAbs := Int.natAbs_pos.2 fun h => hz (BitVec.eq_of_toInt_eq h)
  refine ⟨quotS a b, remS a b, execDivremS_of_not_sdivFaults ha hb hz hok, toInt_quotS hmin, ?_, ?_, ?_⟩
  · rw [toInt_quotS hmin, toInt_remS, Int.tdiv_mul_add_tmod]
  · rw [toInt_remS, Int.natAbs_tmod]
    exact Nat.mod_lt _ hpos
  · rw [toInt_remS]
    exact tmod_eq_zero_or_neg_iff _ _

/-- Settles O30, by induction on the rounds. -/
theorem bitwiseLongDivisionAgrees : Obligations.BitwiseLongDivisionAgrees := fun a _ hb => divBitwise_eq a hb

/-- Settles O28: the zero check comes before any write, in both commands. -/
theorem divisionByZeroFaults : Obligations.DivisionByZeroFaults := by
  intro dst s a ha hb i hi
  have hexec : exec i s = .next (s.raiseFault .divideByZero (encode i)) := by
    simp only [List.mem_cons, List.not_mem_nil, or_false] at hi
    obtain rfl | rfl := hi
    · exact execDivremU_of_zero ha hb rfl
    · exact execDivremS_of_zero ha hb rfl
  exact ⟨hexec, State.raiseFault_opa .., State.raiseFault_res .., State.raiseFault_res2 ..⟩

/-- Settles O29, from the two forms of DIVREM.S and the wrapped results. -/
theorem signedDivisionOfMinByMinusOne : Obligations.SignedDivisionOfMinByMinusOne := by
  refine ⟨rfl, fun dst s ha hb => ⟨fun hwrap => ?_, fun hfault => ⟨?_, rfl⟩⟩⟩
  · have hok : ¬SdivFaults s smin (BitVec.allOnes 256) := fun ⟨_, _, hfault⟩ => by cases hwrap.symm.trans hfault
    have hexec : execDivremS dst s = .next (s.setQuotRem dst (quotS smin (BitVec.allOnes 256))
        (remS smin (BitVec.allOnes 256))) := execDivremS_of_not_sdivFaults ha hb (by decide) hok
    rwa [quotS_smin_allOnes, remS_smin_allOnes] at hexec
  · exact execDivremS_of_sdivFaults ha hb (by decide) ⟨by decide, by decide, hfault⟩

end Sys2Proof.Proofs
end

/-! SUPPORT. The formatter (family 43_formatter): repeated division finds the digits of Mathlib's `Nat.digits`, the
decimal method by groups finds the same ones, and the string left in BUF is the numeral, whose length is a logarithm. -/

/-! ### The digit values of a number (43_formatter.md R167) -/

section
namespace Sys2Proof.Machine
variable {radix x : Nat}

/-- The digit values that `numeral` spells out. -/
def numeralValues (radix x : Nat) : List Nat := if x = 0 then [0] else (Nat.digits radix x).reverse

theorem numeral_eq_map (letters : DigitCase) (radix x : Nat) :
    numeral letters radix x = (numeralValues radix x).map fun d => (alphabet letters).getD d 0 := rfl

theorem numeralValues_of_lt (h : x < radix) : numeralValues radix x = [x] := by
  unfold numeralValues
  split_ifs with hx
  · rw [hx]
  · rw [Nat.digits_of_lt radix x hx h, List.reverse_singleton]

theorem numeralValues_of_le (hr : 1 < radix) (h : radix ≤ x) :
    numeralValues radix x = numeralValues radix (x / radix) ++ [x % radix] := by
  have hx : 0 < x := by omega
  have hq : 0 < x / radix := Nat.div_pos h (by omega)
  rw [numeralValues, numeralValues, if_neg hx.ne', if_neg hq.ne', Nat.digits_def' hr hx, List.reverse_cons]

theorem numeralValues_lt (hr : 1 < radix) {d : Nat} (hd : d ∈ numeralValues radix x) : d < radix := by
  unfold numeralValues at hd
  split_ifs at hd
  · rw [List.mem_singleton.1 hd]
    omega
  · exact Nat.digits_lt_base hr (List.mem_reverse.1 hd)

theorem length_numeralValues (hr : 1 < radix) : (numeralValues radix x).length = Nat.log radix x + 1 := by
  unfold numeralValues
  split_ifs with hx
  · rw [hx, Nat.log_zero_right, List.length_singleton]
  · rw [List.length_reverse, Nat.length_digits radix x hr hx]

theorem digitValues_succ_of_lt (fuel : Nat) (h : x < radix) : digitValues radix (fuel + 1) x = [x] := by
  rw [digitValues, if_pos (Nat.div_eq_of_lt h), Nat.mod_eq_of_lt h, List.nil_append]

theorem digitValues_succ_of_le (fuel : Nat) (hr : 0 < radix) (h : radix ≤ x) :
    digitValues radix (fuel + 1) x = digitValues radix fuel (x / radix) ++ [x % radix] := by
  rw [digitValues, if_neg (Nat.div_pos h hr).ne']

/-- Repeated division finds all digits where the fuel allows as many as the number has. -/
theorem digitValues_eq_numeralValues (hr : 1 < radix) {fuel : Nat} (hx : x < radix ^ (fuel + 1)) :
    digitValues radix (fuel + 1) x = numeralValues radix x := by
  induction fuel generalizing x with
  | zero =>
    have hlt : x < radix := by simpa using hx
    rw [digitValues_succ_of_lt 0 hlt, numeralValues_of_lt hlt]
  | succ fuel ih =>
    obtain hlt | hle := lt_or_ge x radix
    · rw [digitValues_succ_of_lt (fuel + 1) hlt, numeralValues_of_lt hlt]
    · have hq : x / radix < radix ^ (fuel + 1) := Nat.div_lt_of_lt_mul (by rwa [← pow_succ'])
      rw [digitValues_succ_of_le (fuel + 1) (by omega) hle, numeralValues_of_le hr hle, ih hq]

end Sys2Proof.Machine
end

/-! ### Digits by groups of four (43_formatter.md R171) -/

section
namespace Sys2Proof.Machine
variable {x : Nat}

/-- Four divisions by ten find the group that one division by 10000 leaves as remainder. -/
theorem digitValues_add_four_of_le (fuel : Nat) (h : 10000 ≤ x) :
    digitValues 10 (fuel + 4) x = digitValues 10 fuel (x / 10000) ++ fourDigits (x % 10000) := by
  have hgroup : fourDigits (x % 10000) = [x / 10 / 10 / 10 % 10, x / 10 / 10 % 10, x / 10 % 10, x % 10] := by
    simp only [fourDigits, List.cons.injEq, and_true]
    omega
  have hquot : x / 10000 = x / 10 / 10 / 10 / 10 := by omega
  rw [digitValues_succ_of_le _ (by omega) (by omega), digitValues_succ_of_le _ (by omega) (by omega),
    digitValues_succ_of_le _ (by omega) (by omega), digitValues_succ_of_le _ (by omega) (by omega), hgroup, hquot]
  simp only [List.append_assoc, List.cons_append, List.nil_append]

/-- The group method finds what repeated division by ten finds in four times the rounds. -/
theorem decimalByGroups_eq_digitValues (fuel x : Nat) :
    decimalByGroups fuel x = digitValues 10 (4 * fuel + 4) x := by
  induction fuel generalizing x with
  | zero => rfl
  | succ fuel ih =>
    rw [decimalByGroups]
    split_ifs with h
    · have hfour : x < 10 ^ (3 + 1) := h
      have hmore : x < 10 ^ (4 * (fuel + 1) + 3 + 1) :=
        hfour.trans_le (Nat.pow_le_pow_right (by decide) (by omega))
      rw [digitValues_eq_numeralValues (by decide) hfour, digitValues_eq_numeralValues (by decide) hmore]
    · rw [ih, Nat.mul_succ, digitValues_add_four_of_le _ (not_lt.1 h)]

end Sys2Proof.Machine
end

/-! ### The digit string and LEN (43_formatter.md R169, R170, R172) -/

section
namespace Sys2Proof.Machine
variable {letters : DigitCase} {radix x : Nat}

/-- The byte computed for a digit value is the one the alphabet lists. -/
theorem digitByte_eq_getD_alphabet :
    ∀ (letters : DigitCase), ∀ d < 16, digitByte letters d = (alphabet letters).getD d 0
  | .lower => by decide
  | .upper => by decide

theorem one_lt_and_le_of_mem_radixes (hr : radix ∈ [2, 8, 10, 16]) : 1 < radix ∧ radix ≤ 16 := by
  simp only [List.mem_cons, List.not_mem_nil, or_false] at hr
  omega

theorem digitString_eq_numeral (hr : radix ∈ [2, 8, 10, 16]) (hx : x < 2 ^ 256) :
    digitString letters radix x = numeral letters radix x := by
  obtain ⟨hlo, hhi⟩ := one_lt_and_le_of_mem_radixes hr
  have hfuel : x < radix ^ (255 + 1) := hx.trans_le (Nat.pow_le_pow_left hlo 256)
  rw [digitString, digitValues_eq_numeralValues hlo hfuel, numeral_eq_map]
  exact List.map_congr_left fun d hd =>
    digitByte_eq_getD_alphabet letters d ((numeralValues_lt hlo hd).trans_le hhi)

/-- A length below 1024 is kept by the ten bits of LEN (10_state.md R26). -/
theorem putDigits_of_length_lt (s : State) (neg : Bool) {bs : List Byte} (h : bs.length < 1024) :
    s.putDigits neg bs = { s with
      buf := memWrite s.buf 0 bs
      len := BitVec.ofNat 32 bs.length
      status := withNeg neg s.status } := by
  have hlen : (s.putDigits neg bs).len = BitVec.ofNat 32 bs.length := by
    rw [State.putDigits_len]
    apply BitVec.eq_of_toNat_eq
    simp only [BitVec.toNat_setWidth, BitVec.extractLsb'_toNat, BitVec.toNat_ofNat, Nat.shiftRight_zero]
    omega
  rw [← hlen]
  rfl

/-- The digits of a value below 2^256 leave its numeral in BUF and the numeral's length in LEN. -/
theorem putDigits_digitString (s : State) (neg : Bool) (hr : radix ∈ [2, 8, 10, 16]) (hx : x < 2 ^ 256) :
    s.putDigits neg (digitString letters radix x) = { s with
      buf := memWrite s.buf 0 (numeral letters radix x)
      len := BitVec.ofNat 32 (numeral letters radix x).length
      status := withNeg neg s.status } := by
  have hlen := length_digitString_le letters radix x
  rw [putDigits_of_length_lt s neg (by omega), digitString_eq_numeral hr hx]

theorem toNat_len_putDigits_digitString (s : State) (neg : Bool) (hr : radix ∈ [2, 8, 10, 16]) (hx : x < 2 ^ 256) :
    (s.putDigits neg (digitString letters radix x)).len.toNat = (numeral letters radix x).length := by
  have hlen := length_digitString_le letters radix x
  rw [putDigits_digitString s neg hr hx, ← digitString_eq_numeral hr hx, BitVec.toNat_ofNat]
  omega

end Sys2Proof.Machine
end

/-! ### The lengths of numerals (43_formatter.md R172) -/

section
namespace Sys2Proof.Machine
variable {letters : DigitCase} {radix x : Nat}

theorem length_numeral (hr : 1 < radix) : (numeral letters radix x).length = Nat.log radix x + 1 := by
  rw [numeral_eq_map, List.length_map, length_numeralValues hr]

/-- Of the numerals of numbers up to `y`, that of `y` is a longest. -/
theorem length_numeral_mono (hr : 1 < radix) {y : Nat} (h : x ≤ y) :
    (numeral letters radix x).length ≤ (numeral letters radix y).length := by
  rw [length_numeral hr, length_numeral hr]
  exact Nat.succ_le_succ (Nat.log_mono_right h)

/-- The bounds of R172 are the lengths of the numerals of 2^256 - 1. -/
theorem length_numeral_max : ∀ p ∈ [(2, 256), (8, 86), (10, 78), (16, 64)],
    (numeral letters p.1 (2 ^ 256 - 1)).length = p.2 := by
  have hlog : ∀ p ∈ [(2, 256), (8, 86), (10, 78), (16, 64)], 1 < p.1 ∧ Nat.log p.1 (2 ^ 256 - 1) + 1 = p.2 := by
    norm_num
  intro p hp
  obtain ⟨hr, hlen⟩ := hlog p hp
  exact (length_numeral hr).trans hlen

end Sys2Proof.Machine
end

/-! ### FMT on a written OPA (43_formatter.md R167, R168) -/

section
namespace Sys2Proof.Machine
variable {letters : DigitCase} {radix : BitVec 6} {s : State} {a : U256}

theorem fmtLegal_of_mem (hr : radix.toNat ∈ [2, 8, 10, 16]) (hc : letters = .upper → radix.toNat = 16) :
    fmtLegal letters radix = true := by
  have hcase : letters = .lower ∨ radix.toNat = 16 := by
    cases letters with
    | lower => exact .inl rfl
    | upper => exact .inr (hc rfl)
  rw [fmtLegal, fmtRadixLegal, fmtCaseLegal, decide_eq_true hr, decide_eq_true hcase, Bool.and_self]

theorem withOpa_of_value (ha : s.opa.value = some a) (k : U256 → Result) : withOpa s k = k a := by
  rw [withOpa, ha, withValue_some]

theorem uint_lt (a : U256) : uint a < 2 ^ 256 := a.isLt

/-- The number whose digits FMT.S writes: the magnitude, or the pattern's unsigned reading. -/
def fmtSNumber (cfg : Config) (radix : BitVec 6) (a : U256) : Nat :=
  if formatsMagnitude cfg radix then (sint a).natAbs else uint a

theorem fmtSNumber_lt (cfg : Config) (radix : BitVec 6) (a : U256) : fmtSNumber cfg radix a < 2 ^ 256 := by
  unfold fmtSNumber
  split_ifs
  · have hlo := BitVec.le_toInt a
    have hhi := BitVec.toInt_lt (x := a)
    rw [sint_eq_toInt]
    omega
  · exact uint_lt a

theorem execFmtU_of_value (hl : fmtLegal letters radix = true) (ha : s.opa.value = some a) :
    exec (.fmtU letters radix) s = .next (s.putDigits false (digitString letters radix.toNat (uint a))) :=
  (if_pos hl).trans (withOpa_of_value ha _)

theorem execFmtS_of_value (hl : fmtLegal letters radix = true) (ha : s.opa.value = some a) :
    exec (.fmtS letters radix) s = .next (s.putDigits (formatsMagnitude s.config radix && sint a < 0)
      (digitString letters radix.toNat (fmtSNumber s.config radix a))) := by
  refine ((if_pos hl).trans (withOpa_of_value ha _)).trans ?_
  unfold fmtSNumber
  split_ifs with hm <;> simp [hm]

end Sys2Proof.Machine
end

/-! ### The statements -/

section
namespace Sys2Proof.Proofs
open Sys2Proof.Machine

/-- Settles O31: the digits of the unsigned reading are its numeral. -/
theorem formatUnsignedResult : Obligations.FormatUnsignedResult := by
  intro letters radix s a ha hr hc
  rw [execFmtU_of_value (fmtLegal_of_mem hr hc) ha, putDigits_digitString s false hr (uint_lt a)]
  rfl

/-- Settles O32: the parameter and the radix choose the number formatted, and the sign where it is a magnitude. -/
theorem formatSignedResult : Obligations.FormatSignedResult := by
  intro letters radix s a ha hr hc
  rw [execFmtS_of_value (fmtLegal_of_mem hr hc) ha, putDigits_digitString s _ hr (fmtSNumber_lt s.config radix a)]
  refine ⟨fun hmag => ?_, fun hradix htwos => ?_⟩
  · have hm : formatsMagnitude s.config radix = true := decide_eq_true hmag
    rw [fmtSNumber, if_pos hm, hm, Bool.true_and, sint_eq_toInt]
  · have hm : formatsMagnitude s.config radix = false := by
      simp [formatsMagnitude, hradix, htwos]
    rw [fmtSNumber, hm, Bool.false_and]
    rfl

/-- Settles O33: a length grows with the number, that of 2^256 - 1 is the bound, and LEN holds it. -/
theorem numeralLengths : Obligations.NumeralLengths := by
  intro letters p hp
  have hr : p.1 ∈ [2, 8, 10, 16] := List.mem_map_of_mem (f := Prod.fst) hp
  have hlo : 1 < p.1 := (one_lt_and_le_of_mem_radixes hr).1
  have hmax : (numeral letters p.1 (2 ^ 256 - 1)).length = p.2 := length_numeral_max p hp
  have hbounds : ∀ x < 2 ^ 256, 1 ≤ (numeral letters p.1 x).length ∧ (numeral letters p.1 x).length ≤ p.2 :=
    fun x hx => ⟨(length_numeral hlo).symm ▸ Nat.succ_pos _,
      hmax ▸ length_numeral_mono hlo (Nat.le_pred_of_lt hx)⟩
  refine ⟨hbounds, hmax, fun radix s a ha hradix hc => ?_⟩
  rw [← hradix] at hr hmax hbounds
  have hl : fmtLegal letters radix = true := fmtLegal_of_mem hr hc
  refine ⟨fun i hi => ?_, fun hones => ⟨_, execFmtU_of_value hl ha, ?_⟩⟩
  · simp only [List.mem_cons, List.not_mem_nil, or_false] at hi
    obtain rfl | rfl := hi
    · refine ⟨_, execFmtU_of_value hl ha, ?_⟩
      rw [toNat_len_putDigits_digitString s _ hr (uint_lt a)]
      exact hbounds _ (uint_lt a)
    · have hx := fmtSNumber_lt s.config radix a
      refine ⟨_, execFmtS_of_value hl ha, ?_⟩
      rw [toNat_len_putDigits_digitString s _ hr hx]
      exact hbounds _ hx
  · rw [toNat_len_putDigits_digitString s _ hr (uint_lt a), hones]
    exact hmax

/-- Settles O34: both methods find the same digits, and 84 of them are enough. -/
theorem decimalByGroupsAgrees : Obligations.DecimalByGroupsAgrees := by
  intro letters x hx
  have h84 : x < 10 ^ (83 + 1) := hx.trans (by norm_num)
  have h256 : x < 10 ^ (255 + 1) := hx.trans (by norm_num)
  rw [decimalByGroups_eq_digitValues, digitString, digitValues_eq_numeralValues (by omega) h84,
    digitValues_eq_numeralValues (by omega) h256]

end Sys2Proof.Proofs
end

/-! SUPPORT. The parser (family 44_parser): valid digits accumulate to the number they write until it leaves the
range, the sign chooses the range, and a PARSE answers with the number or with the first failure. -/

/-! ### Digit values (44_parser.md R185) -/

section
namespace Sys2Proof.Machine
variable {radix n : Nat} {ch : Byte} {body : List Byte}

theorem digitOf_of_decimal (hlo : 0x30 ≤ ch.toNat) (hhi : ch.toNat ≤ 0x39) :
    digitOf ch = some (ch.toNat - 0x30) := by
  rw [digitOf, if_pos ⟨hlo, hhi⟩]

theorem digitOf_of_lower (hlo : 0x61 ≤ ch.toNat) (hhi : ch.toNat ≤ 0x7a) :
    digitOf ch = some (ch.toNat - 0x61 + 10) := by
  rw [digitOf, if_neg (by omega), if_pos ⟨hlo, hhi⟩]

theorem digitOf_of_upper (hlo : 0x41 ≤ ch.toNat) (hhi : ch.toNat ≤ 0x5a) :
    digitOf ch = some (ch.toNat - 0x41 + 10) := by
  rw [digitOf, if_neg (by omega), if_neg (by omega), if_pos ⟨hlo, hhi⟩]

theorem digitOf_of_no_range (hdec : ¬(0x30 ≤ ch.toNat ∧ ch.toNat ≤ 0x39))
    (hlow : ¬(0x61 ≤ ch.toNat ∧ ch.toNat ≤ 0x7a)) (hup : ¬(0x41 ≤ ch.toNat ∧ ch.toNat ≤ 0x5a)) : digitOf ch = none := by
  rw [digitOf, if_neg hdec, if_neg hlow, if_neg hup]

theorem denotes_nil : Denotes radix [] 0 := ⟨[], rfl, nofun, rfl⟩

theorem denotes_nil_iff : Denotes radix [] n ↔ n = 0 := by
  refine ⟨fun ⟨vals, hvals, _, hn⟩ => ?_, fun h => h ▸ denotes_nil⟩
  rw [List.map_eq_nil_iff.1 hvals.symm] at hn
  exact hn

/-- The first digit has the weight of the number of digits after it. -/
theorem Denotes.uncons (h : Denotes radix (ch :: body) n) : ∃ d m, digitOf ch = some d ∧ d < radix ∧
    Denotes radix body m ∧ n = d * radix ^ body.length + m := by
  obtain ⟨vals, hvals, hlt, rfl⟩ := h
  cases vals with
  | nil => simp at hvals
  | cons d vals =>
    obtain ⟨hd, htail⟩ := List.cons.inj hvals
    have hlen : body.length = vals.length := by simpa using congrArg List.length htail
    refine ⟨d, _, hd, hlt d List.mem_cons_self, ⟨vals, htail, fun v hv => hlt v (List.mem_cons_of_mem d hv), rfl⟩, ?_⟩
    rw [List.reverse_cons, Nat.ofDigits_append, Nat.ofDigits_singleton, List.length_reverse, hlen]
    ring

end Sys2Proof.Machine
end

/-! ### Accumulation within the range of the type (44_parser.md R181, R184) -/

section
namespace Sys2Proof.Machine
variable {radix m n : Nat} {signed neg : Bool} {ch : Byte} {body rest : List Byte}

/-- The number a magnitude stands for after the sign. -/
def signedNumber (neg : Bool) (m : Nat) : Int := if neg then -m else m

theorem wrap_signedNumber_false (m : Nat) : wrap (signedNumber false m) = BitVec.ofNat 256 m :=
  BitVec.ofInt_natCast 256 m

theorem wrap_signedNumber_true (m : Nat) : wrap (signedNumber true m) = BitVec.ofInt 256 (-m) := rfl

/-- The greatest magnitude in the range of the type on the side of the sign. -/
def magnitudeLimit (signed neg : Bool) : Nat := if neg then (-parseLo signed).toNat else (parseHi signed).toNat

/-- The error for a magnitude above the limit. -/
def overflowKind (neg : Bool) : ErrKind := if neg then .negOverflow else .posOverflow

theorem magnitudeLimit_unsigned : magnitudeLimit false false = 2 ^ 256 - 1 := by decide
theorem magnitudeLimit_signed_pos : magnitudeLimit true false = 2 ^ 255 - 1 := by decide
theorem magnitudeLimit_signed_neg : magnitudeLimit true true = 2 ^ 255 := by decide

theorem parseLo_eq (signed : Bool) : parseLo signed = -(magnitudeLimit signed true : Int) := by
  cases signed <;> decide

theorem parseHi_eq (signed : Bool) : parseHi signed = magnitudeLimit signed false := by
  cases signed <;> decide

theorem accumulate_eq_invalidDigit (lo hi acc : Int) :
    accumulate radix lo hi neg acc ch = .error .invalidDigit ↔ ¬∃ d, digitOf ch = some d ∧ d < radix := by
  unfold accumulate
  cases hd : digitOf ch with
  | none => simp
  | some d =>
    by_cases hlt : d < radix
    · simp only [not_le.2 hlt, if_false]
      split_ifs <;> simp [hlt]
    · simp [not_lt.1 hlt]

/-- A valid digit is put behind the magnitude read so far, unless that takes it above the limit. -/
theorem accumulate_of_valid {d : Nat} (hd : digitOf ch = some d) (hlt : d < radix) :
    accumulate radix (parseLo signed) (parseHi signed) neg (signedNumber neg m) ch =
      if magnitudeLimit signed neg < m * radix + d then .error (overflowKind neg)
      else .ok (signedNumber neg (m * radix + d)) := by
  simp only [accumulate, hd, not_le.2 hlt, if_false]
  cases neg with
  | false =>
    have hin : parseHi signed < m * radix + d ↔ magnitudeLimit signed false < m * radix + d := by
      rw [parseHi_eq]; norm_cast
    simp [signedNumber, overflowKind, hin]
  | true =>
    have hacc : -(m : Int) * radix - d = -((m * radix + d : Nat) : Int) := by push_cast; ring
    have hin : -((m * radix + d : Nat) : Int) < parseLo signed ↔ magnitudeLimit signed true < m * radix + d := by
      rw [parseLo_eq]; omega
    simp only [signedNumber, overflowKind, if_true, hacc, hin]

/-- Valid digits are read as a block: they are put behind the magnitude read so far, unless that takes it above the
limit, and then nothing after them is looked at. -/
theorem parseDigits_append (hb : Denotes radix body n) (hm : m ≤ magnitudeLimit signed neg) :
    parseDigits radix (parseLo signed) (parseHi signed) neg (signedNumber neg m) (body ++ rest) =
      if magnitudeLimit signed neg < m * radix ^ body.length + n then .error (overflowKind neg)
      else parseDigits radix (parseLo signed) (parseHi signed) neg
        (signedNumber neg (m * radix ^ body.length + n)) rest := by
  induction body generalizing m n with
  | nil =>
    obtain rfl := denotes_nil_iff.1 hb
    simp [not_lt.2 hm]
  | cons ch body ih =>
    obtain ⟨d, n', hd, hlt, hb', rfl⟩ := hb.uncons
    have htotal : m * radix ^ (ch :: body).length + (d * radix ^ body.length + n') =
        (m * radix + d) * radix ^ body.length + n' := by rw [List.length_cons]; ring
    rw [htotal, List.cons_append, parseDigits, accumulate_of_valid hd hlt]
    by_cases hover : magnitudeLimit signed neg < m * radix + d
    · have hgrow : m * radix + d ≤ (m * radix + d) * radix ^ body.length + n' :=
        (Nat.le_mul_of_pos_right _ (Nat.pow_pos (by omega))).trans (Nat.le_add_right _ _)
      simp only [if_pos hover, if_pos (hover.trans_le hgrow)]
    · simp only [if_neg hover]
      exact ih hb' (not_lt.1 hover)

end Sys2Proof.Machine
end

/-! ### The sign and the text (44_parser.md R181, R182) -/

section
namespace Sys2Proof.Machine
variable {radix n : Nat} {signed neg : Bool} {ch : Byte} {text sign body rest : List Byte}

/-- The text does not begin with a sign the command strips. -/
def NoSign (signed : Bool) (text : List Byte) : Prop :=
  ∀ ch ∈ text.head?, ch ≠ 0x2b ∧ (signed = true → ch ≠ 0x2d)

theorem noSign_cons : NoSign signed (ch :: rest) ↔ ch ≠ 0x2b ∧ (signed = true → ch ≠ 0x2d) := by
  simp [NoSign]

theorem splitSign_of_noSign (h : NoSign signed text) : splitSign signed text = (false, text) := by
  cases text with
  | nil => rfl
  | cons ch rest =>
    obtain ⟨hplus, hminus⟩ := noSign_cons.1 h
    rw [splitSign, if_neg hplus, if_neg fun ⟨hch, hs⟩ => hminus hs hch]

/-- No sign and `+` leave the rest of the text with a positive number to read. -/
theorem splitSign_append (h : sign = [] ∧ NoSign signed text ∨ sign = [0x2b]) :
    splitSign signed (sign ++ text) = (false, text) := by
  obtain ⟨rfl, hno⟩ | rfl := h
  · exact splitSign_of_noSign hno
  · rfl

theorem splitSign_minus (text : List Byte) : splitSign true (0x2d :: text) = (true, text) := rfl

theorem digitOf_plus : digitOf 0x2b = none := by decide
theorem digitOf_minus : digitOf 0x2d = none := by decide

/-- The signs are no digits, so a text that begins with valid digits begins with no sign. -/
theorem noSign_of_denotes_append (hb : Denotes radix body n) (hrest : body = [] → NoSign signed rest) :
    NoSign signed (body ++ rest) := by
  cases body with
  | nil => exact hrest rfl
  | cons ch body =>
    obtain ⟨d, _, hd, -⟩ := hb.uncons
    have hne {c : Byte} (hc : digitOf c = none) : ch ≠ c := by
      rintro rfl
      exact Option.some_ne_none d (hd.symm.trans hc)
    exact noSign_cons.2 ⟨hne digitOf_plus, fun _ => hne digitOf_minus⟩

theorem splitSign_append_digits (hsign : sign ∈ [[], [0x2b]]) (hb : Denotes radix body n) (hne : body ≠ []) :
    splitSign signed (sign ++ (body ++ rest)) = (false, body ++ rest) := by
  simp only [List.mem_cons, List.not_mem_nil, or_false] at hsign
  exact splitSign_append (hsign.imp_left fun h => ⟨h, noSign_of_denotes_append hb fun hnil => absurd hnil hne⟩)

theorem parseText_of_splitSign (hs : splitSign signed text = (neg, body)) (hne : body ≠ []) :
    parseText signed radix text = parseDigits radix (parseLo signed) (parseHi signed) neg 0 body := by
  obtain ⟨ch, body, rfl⟩ := List.exists_cons_of_ne_nil hne
  rw [parseText, hs]

theorem parseText_of_splitSign_nil (hs : splitSign signed text = (neg, [])) :
    parseText signed radix text = .error .empty := by
  rw [parseText, hs]

/-- The parse of a sign, valid digits and anything after them. -/
theorem parseText_digits (hs : splitSign signed text = (neg, body ++ rest)) (hne : body ++ rest ≠ [])
    (hb : Denotes radix body n) :
    parseText signed radix text =
      if magnitudeLimit signed neg < n then .error (overflowKind neg)
      else parseDigits radix (parseLo signed) (parseHi signed) neg (signedNumber neg n) rest := by
  have hzero : signedNumber neg 0 = 0 := by cases neg <;> rfl
  have hrun := parseDigits_append (signed := signed) (neg := neg) (rest := rest) hb (Nat.zero_le _)
  rw [hzero, Nat.zero_mul, Nat.zero_add] at hrun
  rw [parseText_of_splitSign hs hne, hrun]

end Sys2Proof.Machine
end

/-! ### PARSE on a text (44_parser.md R180, R183, R186, R188) -/

section
namespace Sys2Proof.Machine
variable {signed neg : Bool} {i : Instr} {dst : Dst} {radix : BitVec 6} {s : State} {text body rest : List Byte}
  {n limit : Nat} {v : U256} {e : BitVec 3}

theorem exec_parseU : exec (.parseU dst radix) s = parseOp false (.parseU dst radix) dst radix s := rfl
theorem exec_parseS : exec (.parseS dst radix) s = parseOp true (.parseS dst radix) dst radix s := rfl

theorem parseOp_of_len_gt (hlen : bufSize < s.len.toNat) :
    parseOp signed i dst radix s = .next (s.raiseFault .lenRange (encode i)) := by
  rw [parseOp, if_pos hlen, takeFault]

theorem parseOp_of_radix (hlen : s.len.toNat ≤ bufSize) (hradix : ¬(2 ≤ radix.toNat ∧ radix.toNat ≤ 36)) :
    parseOp signed i dst radix s = .next (s.raiseFault .radixRange (encode i)) := by
  rw [parseOp, if_neg (not_lt.2 hlen), if_pos hradix, takeFault]

variable (hlo : 2 ≤ radix.toNat) (hhi : radix.toNat ≤ 36) (ht : HoldsText s text)
include hlo hhi ht

theorem parseOp_of_error {kind : ErrKind} (hk : parseText signed radix.toNat text = .error kind)
    (hcode : kind.code = e) : parseOp signed i dst radix s = .next (s.setStatus (withErr e s.status)) := by
  obtain ⟨hlen : s.len.toNat ≤ bufSize, hread⟩ := ht
  rw [parseOp, if_neg (not_lt.2 hlen), if_neg (not_not.2 ⟨hlo, hhi⟩), withBuf, hread, withValue_some, hk, ← hcode]
  rfl

theorem parseOp_of_ok {acc : Int} (hacc : parseText signed radix.toNat text = .ok acc) :
    parseOp signed i dst radix s = .next ((s.setDst dst (wrap acc)).setStatus (withErr 0 s.status)) := by
  obtain ⟨hlen : s.len.toNat ≤ bufSize, hread⟩ := ht
  rw [parseOp, if_neg (not_lt.2 hlen), if_neg (not_not.2 ⟨hlo, hhi⟩), withBuf, hread, withValue_some, hacc,
    ← State.setDst_status s dst (wrap acc)]
  rfl

/-- Valid digits after the sign: the number, where nothing follows and it is in the range, and the overflow where it
is not, whatever follows. -/
theorem parseOp_of_digits (hs : splitSign signed text = (neg, body ++ rest)) (hne : body ≠ [])
    (hb : Denotes radix.toNat body n) (hlimit : magnitudeLimit signed neg = limit)
    (hvalue : wrap (signedNumber neg n) = v) (hcode : (overflowKind neg).code = e) :
    (rest = [] → n ≤ limit →
      parseOp signed i dst radix s = .next ((s.setDst dst v).setStatus (withErr 0 s.status))) ∧
    (limit < n → parseOp signed i dst radix s = .next (s.setStatus (withErr e s.status))) := by
  have hparse := parseText_digits hs (List.append_ne_nil_of_left_ne_nil hne rest) hb
  rw [hlimit] at hparse
  refine ⟨fun hrest hn => ?_, fun hn => ?_⟩
  · rw [if_neg (not_lt.2 hn), hrest, parseDigits] at hparse
    rw [parseOp_of_ok hlo hhi ht hparse, hvalue]
  · rw [if_pos hn] at hparse
    exact parseOp_of_error hlo hhi ht hparse hcode

/-- A byte that is no valid digit after digits that write a number in the range, whatever follows it. -/
theorem parseOp_of_invalid {bad : Byte} (hs : splitSign signed text = (neg, body ++ bad :: rest))
    (hb : Denotes radix.toNat body n) (hbad : ∀ d, digitOf bad = some d → radix.toNat ≤ d)
    (hlimit : magnitudeLimit signed neg = limit) (hn : n ≤ limit) :
    parseOp signed i dst radix s = .next (s.setStatus (withErr 2 s.status)) := by
  have hinvalid : ¬∃ d, digitOf bad = some d ∧ d < radix.toNat :=
    fun ⟨d, hd, hlt⟩ => absurd (hbad d hd) (not_le.2 hlt)
  refine parseOp_of_error hlo hhi ht (kind := .invalidDigit) ?_ rfl
  rw [parseText_digits hs (by simp) hb, hlimit, if_neg (not_lt.2 hn), parseDigits,
    (accumulate_eq_invalidDigit _ _ _).2 hinvalid]

end Sys2Proof.Machine
end

/-! ### The text FMT.U leaves (44_parser.md R187) -/

section
namespace Sys2Proof.Machine
variable {letters : DigitCase} {radix x : Nat}

/-- The parser reads each letter of the alphabets as the digit value it stands for. -/
theorem digitOf_getD_alphabet :
    ∀ (letters : DigitCase), ∀ d < 16, digitOf ((alphabet letters).getD d 0) = some d
  | .lower => by decide
  | .upper => by decide

theorem ofDigits_reverse_numeralValues (radix x : Nat) : Nat.ofDigits radix (numeralValues radix x).reverse = x := by
  unfold numeralValues
  split_ifs with hx
  · rw [hx, List.reverse_singleton, Nat.ofDigits_singleton]
  · rw [List.reverse_reverse, Nat.ofDigits_digits]

/-- The numeral of a number is text of valid digits that writes it. -/
theorem denotes_numeral (hlo : 1 < radix) (hhi : radix ≤ 16) : Denotes radix (numeral letters radix x) x := by
  refine ⟨numeralValues radix x, ?_, fun v hv => numeralValues_lt hlo hv,
    (ofDigits_reverse_numeralValues radix x).symm⟩
  rw [numeral_eq_map, List.map_map]
  exact List.map_congr_left fun d hd => digitOf_getD_alphabet letters d ((numeralValues_lt hlo hd).trans_le hhi)

theorem numeral_ne_nil (hlo : 1 < radix) : numeral letters radix x ≠ [] :=
  List.ne_nil_of_length_pos (by rw [length_numeral hlo]; exact Nat.succ_pos _)

theorem holdsText_putDigits_digitString (s : State) (neg : Bool) (hr : radix ∈ [2, 8, 10, 16]) (hx : x < 2 ^ 256) :
    HoldsText (s.putDigits neg (digitString letters radix x)) (numeral letters radix x) := by
  have hlen := toNat_len_putDigits_digitString (letters := letters) s neg hr hx
  have hle := length_digitString_le letters radix x
  rw [HoldsText, hlen, State.putDigits_buf, digitString_eq_numeral hr hx, memRead_memWrite]
  rw [digitString_eq_numeral hr hx] at hle
  exact ⟨by omega, rfl⟩

end Sys2Proof.Machine
end

/-! ### The statements -/

section
namespace Sys2Proof.Proofs
open Sys2Proof.Machine

/-- Settles O36: no sign and `+` leave the digits, which are read as a block. -/
theorem parseUnsignedResult : Obligations.ParseUnsignedResult := by
  intro dst radix s sign body rest n hlo hhi ht hsign hne hb
  rw [List.append_assoc] at ht
  rw [exec_parseU]
  exact parseOp_of_digits hlo hhi ht (splitSign_append_digits hsign hb hne) hne hb magnitudeLimit_unsigned
    (wrap_signedNumber_false n) rfl

/-- Settles O37: as for PARSE.U, and `-` leaves the digits with the limit of the negative side. -/
theorem parseSignedResult : Obligations.ParseSignedResult := by
  intro dst radix s sign body rest n hlo hhi ht hne hb
  rw [List.append_assoc] at ht
  rw [exec_parseS]
  refine ⟨fun hsign => ?_, fun hsign => ?_⟩
  · exact parseOp_of_digits hlo hhi ht (splitSign_append_digits hsign hb hne) hne hb magnitudeLimit_signed_pos
      (wrap_signedNumber_false n) rfl
  · subst hsign
    exact parseOp_of_digits hlo hhi ht (splitSign_minus _) hne hb magnitudeLimit_signed_neg
      (wrap_signedNumber_true n) rfl

/-- Settles O39: the digits before the bad byte stay in the range, so the parse comes to that byte. -/
theorem parseInvalidDigit : Obligations.ParseInvalidDigit := by
  intro dst radix s sign good rest bad n hlo hhi ht hb hbad
  rw [List.append_assoc] at ht
  rw [exec_parseU, exec_parseS]
  refine ⟨fun hsign hn => ?_, fun hsign hn => ?_, fun hsign hn => ?_⟩
  · have hs : splitSign false (sign ++ (good ++ bad :: rest)) = (false, good ++ bad :: rest) :=
      splitSign_append (hsign.imp_left fun ⟨hnil, hfirst⟩ =>
        ⟨hnil, noSign_of_denotes_append hb fun hgood => noSign_cons.2 ⟨hfirst hgood, nofun⟩⟩)
    exact parseOp_of_invalid hlo hhi ht hs hb hbad magnitudeLimit_unsigned hn
  · have hs : splitSign true (sign ++ (good ++ bad :: rest)) = (false, good ++ bad :: rest) :=
      splitSign_append (hsign.imp_left fun ⟨hnil, hfirst⟩ =>
        ⟨hnil, noSign_of_denotes_append hb fun hgood =>
          noSign_cons.2 ((hfirst hgood).imp_right fun hminus _ => hminus)⟩)
    exact parseOp_of_invalid hlo hhi ht hs hb hbad magnitudeLimit_signed_pos hn
  · subst hsign
    exact parseOp_of_invalid hlo hhi ht (splitSign_minus _) hb hbad magnitudeLimit_signed_neg hn

/-- Settles O41: FMT.U leaves a numeral, and PARSE.U gives the number of a text of valid digits (O36). -/
theorem formatThenParseGivesBackTheValue : Obligations.FormatThenParseGivesBackTheValue := by
  intro letters dst radix s t a hr ha hc hexec
  obtain ⟨hlo, hhi⟩ := one_lt_and_le_of_mem_radixes hr
  obtain rfl := Host.Outcome.next.inj ((execFmtU_of_value (fmtLegal_of_mem hr hc) ha).symm.trans hexec)
  have ht := holdsText_putDigits_digitString (letters := letters) s false hr (uint_lt a)
  rw [← List.append_nil (numeral _ _ _)] at ht
  have hparse := (parseUnsignedResult dst radix _ [] _ [] (uint a) hlo (hhi.trans (by decide)) ht (by simp)
    (numeral_ne_nil hlo) (denotes_numeral hlo hhi)).1 rfl (Nat.le_pred_of_lt (uint_lt a))
  have hvalue : BitVec.ofNat 256 (uint a) = a := by rw [uint, BitVec.ofNat_toNat, BitVec.setWidth_eq]
  rwa [hvalue] at hparse

/-- Settles O35, by the ranges of R185. -/
theorem digitValues : Obligations.DigitValues := fun _ =>
  ⟨digitOf_of_decimal, digitOf_of_lower, digitOf_of_upper, digitOf_of_no_range,
    fun _ lo hi _ acc => accumulate_eq_invalidDigit lo hi acc⟩

/-- Settles O38: nothing is left after the sign, but PARSE.U strips no `-` and reads it as a bad byte (O39). -/
theorem parseEmptyText : Obligations.ParseEmptyText := by
  intro dst radix s text hlo hhi ht
  rw [exec_parseU, exec_parseS]
  refine ⟨fun htext => ?_, fun htext => ?_⟩
  · have hempty (signed : Bool) : splitSign signed text = (false, []) := by
      simp only [List.mem_cons, List.not_mem_nil, or_false] at htext
      obtain rfl | rfl := htext <;> rfl
    exact ⟨parseOp_of_error hlo hhi ht (parseText_of_splitSign_nil (hempty false)) rfl,
      parseOp_of_error hlo hhi ht (parseText_of_splitSign_nil (hempty true)) rfl⟩
  · subst htext
    have hminus : ∀ d, digitOf 0x2d = some d → radix.toNat ≤ d := fun d hd => nomatch digitOf_minus.symm.trans hd
    exact ⟨parseOp_of_error hlo hhi ht (parseText_of_splitSign_nil (splitSign_minus [])) rfl,
      (parseInvalidDigit dst radix s [] [] [] 0x2d 0 hlo hhi ht denotes_nil hminus).1
        (.inl ⟨rfl, fun _ => by decide⟩) (Nat.zero_le _)⟩

/-- Settles O40: the two checks stand before the read of BUF. -/
theorem parseRangeFaults : Obligations.ParseRangeFaults := by
  intro dst radix s i hi
  simp only [List.mem_cons, List.not_mem_nil, or_false] at hi
  obtain rfl | rfl := hi <;> exact ⟨parseOp_of_len_gt, parseOp_of_radix⟩

end Sys2Proof.Proofs
end

/-! SUPPORT. The byte codec (family 45_codec): the bytes an encoder takes are the base-256 digits of the value, a
decoder reads a string as the number of its base-256 digits, and the compact length is the least that holds the
value. -/

/-! ### Byte strings in BUF and LEN (45_codec.md R195) -/

section
namespace Sys2Proof.Machine
variable {s : State} {bs : List Byte}

/-- A read of a byte string where each of its bytes stands. -/
theorem memRead_of_bufRead {m : List Host.Cell} {i n : Nat} (hlen : bs.length = n)
    (h : ∀ j < n, bufRead m (i + j) = bs[j]?) : memRead m i n = some bs := by
  have hne : memRead m i n ≠ none := (memRead_ne_none_iff m i n).2 fun j hj => by
    rw [h j hj, List.getElem?_eq_getElem (hlen ▸ hj)]
    exact Option.some_ne_none _
  obtain ⟨cs, hcs⟩ := Option.ne_none_iff_exists'.1 hne
  obtain ⟨hcslen, hread⟩ := memRead_some m i n cs hcs
  have hbs : cs = bs := List.ext_getElem?' fun j hj => by
    have hjn : j < n := by omega
    rw [← hread j hjn, h j hjn]
  rw [hcs, hbs]

/-- A length below 1024 is kept by the ten bits of LEN (10_state.md R26). -/
theorem putString_len_of_length_lt (s : State) (h : bs.length < 1024) :
    (s.putString bs).len = BitVec.ofNat 32 bs.length :=
  congrArg State.len (putDigits_of_length_lt s false h)

theorem putString_of_length_lt (s : State) (h : bs.length < 1024) :
    s.putString bs = { s with buf := memWrite s.buf 0 bs, len := BitVec.ofNat 32 bs.length } := by
  rw [← putString_len_of_length_lt s h]
  rfl

theorem toNat_len_putString (s : State) (h : bs.length < 1024) : (s.putString bs).len.toNat = bs.length := by
  rw [putString_len_of_length_lt s h, BitVec.toNat_ofNat]
  omega

theorem memRead_putString {n : Nat} (s : State) (hlen : bs.length = n) :
    memRead (s.putString bs).buf 0 n = some bs := by
  rw [← hlen, State.putString_buf, memRead_memWrite]

end Sys2Proof.Machine
end

/-! ### Strings of bytes as base-256 digits (45_codec.md R196 to R199) -/

section
namespace Sys2Proof.Machine
variable {v : U256} {n : Nat}

theorem valueLE_eq_ofDigits (bs : List Byte) : valueLE bs = Nat.ofDigits 256 (bs.map BitVec.toNat) := by
  induction bs with
  | nil => rfl
  | cons b bs ih => rw [valueLE, ih, List.map_cons, Nat.ofDigits_cons]

theorem valueBE_eq_ofDigits (bs : List Byte) :
    valueBE bs = Nat.ofDigits 256 (bs.reverse.map BitVec.toNat) := by
  induction bs with
  | nil => rfl
  | cons b bs ih =>
    rw [valueBE, ih, List.reverse_cons, List.map_append, Nat.ofDigits_append, List.map_singleton,
      Nat.ofDigits_singleton, List.length_map, List.length_reverse]
    ring

/-- The two readings of a string differ by its order alone. -/
theorem valueLE_reverse (bs : List Byte) : valueLE bs.reverse = valueBE bs := by
  rw [valueLE_eq_ofDigits, valueBE_eq_ofDigits]

theorem wrap_valueBE (bs : List Byte) :
    wrap (valueBE bs) = BitVec.ofNat 256 (Nat.ofDigits 256 (bs.reverse.map BitVec.toNat)) := by
  rw [← valueBE_eq_ofDigits]
  exact BitVec.ofInt_natCast 256 _

theorem wrap_valueLE (bs : List Byte) :
    wrap (valueLE bs) = BitVec.ofNat 256 (Nat.ofDigits 256 (bs.map BitVec.toNat)) := by
  rw [← valueLE_eq_ofDigits]
  exact BitVec.ofInt_natCast 256 _

/-- Byte `k` is the base-256 digit of weight `256 ^ k`. -/
theorem toNat_byteAt (v : U256) (k : Nat) : (byteAt v k).toNat = uint v / 256 ^ k % 256 := by
  rw [byteAt, BitVec.extractLsb'_toNat, Nat.shiftRight_eq_div_pow, pow_mul]
  rfl

theorem bytesBE_succ (n : Nat) (v : U256) : bytesBE (n + 1) v = byteAt v n :: bytesBE n v := by
  rw [bytesBE, List.range_succ_eq_map, List.map_cons, List.map_map, bytesBE]
  refine congrArg (byteAt v n :: ·) (List.map_congr_left fun i _ => congrArg (byteAt v) ?_)
  omega

theorem bytesLE_succ (n : Nat) (v : U256) : bytesLE (n + 1) v = bytesLE n v ++ [byteAt v n] := by
  rw [bytesLE, List.range_succ, List.map_append, List.map_singleton, bytesLE]

theorem reverse_bytesBE (n : Nat) (v : U256) : (bytesBE n v).reverse = bytesLE n v := by
  induction n with
  | zero => rfl
  | succ n ih => rw [bytesBE_succ, List.reverse_cons, ih, bytesLE_succ]

/-- The low `n` bytes are read back as the value modulo `256 ^ n`. -/
theorem valueBE_bytesBE (n : Nat) (v : U256) : valueBE (bytesBE n v) = uint v % 256 ^ n := by
  induction n with
  | zero => rw [pow_zero, Nat.mod_one]; rfl
  | succ n ih =>
    rw [bytesBE_succ, valueBE, ih, length_bytesBE, toNat_byteAt, Nat.mod_pow_succ]
    ring

theorem wrap_valueBE_bytesBE (h : uint v < 256 ^ n) : wrap (valueBE (bytesBE n v)) = v := by
  rw [valueBE_bytesBE, Nat.mod_eq_of_lt h, wrap_uint]

theorem wrap_valueLE_bytesLE (h : uint v < 256 ^ n) : wrap (valueLE (bytesLE n v)) = v := by
  rw [← reverse_bytesBE, valueLE_reverse, wrap_valueBE_bytesBE h]

/-- A value fits in 32 bytes. -/
theorem uint_lt_pow_32 (v : U256) : uint v < 256 ^ 32 := (uint_lt v).trans_eq (by norm_num)

/-- BUF after a store of `n` bytes given by their index. -/
theorem bufRead_memWrite_map_range (m : List Host.Cell) (n : Nat) (f : Nat → Byte) (j : Nat) :
    bufRead (memWrite m 0 ((List.range n).map f)) j = if j < n then some (f j) else bufRead m j := by
  rw [bufRead_memWrite, List.length_map, List.length_range, Nat.zero_add, Nat.sub_zero]
  by_cases hj : j < n
  · rw [if_pos ⟨Nat.zero_le j, hj⟩, if_pos hj, List.getElem?_map, List.getElem?_range hj, Option.map_some]
  · rw [if_neg fun h => hj h.2, if_neg hj]

theorem bufRead_memWrite_bytesBE (m : List Host.Cell) (n : Nat) (v : U256) (j : Nat) :
    bufRead (memWrite m 0 (bytesBE n v)) j = if j < n then some (byteAt v (n - 1 - j)) else bufRead m j :=
  bufRead_memWrite_map_range m n _ j

theorem bufRead_memWrite_bytesLE (m : List Host.Cell) (n : Nat) (v : U256) (j : Nat) :
    bufRead (memWrite m 0 (bytesLE n v)) j = if j < n then some (byteAt v j) else bufRead m j :=
  bufRead_memWrite_map_range m n _ j

end Sys2Proof.Machine
end

/-! ### The compact length (45_codec.md R200) -/

section
namespace Sys2Proof.Machine
variable {v : U256}

theorem bitLength_le_iff (x n : Nat) : bitLength x ≤ n ↔ x < 2 ^ n := by
  rw [bitLength]
  split_ifs with hx
  · subst hx
    exact iff_of_true (Nat.zero_le n) (Nat.two_pow_pos n)
  · exact Nat.succ_le_iff.trans (Nat.log2_lt hx)

theorem uint_ne_zero (hv : v ≠ 0) : uint v ≠ 0 := fun h => hv (BitVec.eq_of_toNat_eq h)

/-- The compact encoding of a value that is not 0 has at most as many bytes as any that holds it. -/
theorem compactLength_le_iff (cfg : Config) (hv : v ≠ 0) (k : Nat) :
    compactLength cfg v ≤ k ↔ uint v < 256 ^ k := by
  have hbits : bitLength (uint v) ≤ 8 * k ↔ uint v < 256 ^ k := by
    rw [bitLength_le_iff, pow_mul]
    rfl
  rw [compactLength, if_neg fun h => uint_ne_zero hv h.1, ← hbits]
  omega

theorem compactLength_zero (cfg : Config) :
    compactLength cfg 0 = if cfg.compactZero = .oneZeroByte then 1 else 0 := by
  unfold compactLength
  split_ifs with h h' h'
  · rfl
  · exact absurd h.2 h'
  · exact absurd ⟨rfl, h'⟩ h
  · rfl

/-- The compact encoding holds the value. -/
theorem uint_lt_pow_compactLength (cfg : Config) (v : U256) : uint v < 256 ^ compactLength cfg v := by
  by_cases hv : v = 0
  · subst hv
    exact Nat.pow_pos (by decide)
  · exact (compactLength_le_iff cfg hv _).1 le_rfl

theorem compactLength_pos (cfg : Config) (hv : v ≠ 0) : 0 < compactLength cfg v := by
  refine Nat.not_le.1 fun hle => uint_ne_zero hv ?_
  exact Nat.lt_one_iff.1 ((compactLength_le_iff cfg hv 0).1 hle)

/-- One byte less does not hold the value. -/
theorem pow_compactLength_pred_le (cfg : Config) (hv : v ≠ 0) : 256 ^ (compactLength cfg v - 1) ≤ uint v := by
  refine Nat.not_lt.1 fun hlt => ?_
  have hle := (compactLength_le_iff cfg hv _).2 hlt
  have hpos := compactLength_pos cfg hv
  omega

/-- The most significant byte of the compact encoding is not 0. -/
theorem byteAt_compactLength_pred_ne_zero (cfg : Config) (hv : v ≠ 0) :
    byteAt v (compactLength cfg v - 1) ≠ 0 := by
  intro hbyte
  have hpow : 0 < 256 ^ (compactLength cfg v - 1) := Nat.pow_pos (by decide)
  have hlow : 1 ≤ uint v / 256 ^ (compactLength cfg v - 1) :=
    (Nat.one_le_div_iff hpow).2 (pow_compactLength_pred_le cfg hv)
  have hhigh : uint v / 256 ^ (compactLength cfg v - 1) < 256 := by
    refine Nat.div_lt_of_lt_mul ?_
    rw [← pow_succ, Nat.sub_add_cancel (compactLength_pos cfg hv)]
    exact uint_lt_pow_compactLength cfg v
  have hdigit := toNat_byteAt v (compactLength cfg v - 1)
  rw [hbyte, Nat.mod_eq_of_lt hhigh] at hdigit
  exact Nat.ne_of_gt hlow hdigit.symm

end Sys2Proof.Machine
end

/-! ### The commands on written inputs (45_codec.md R196 to R203) -/

section
namespace Sys2Proof.Machine
variable {dst : Dst} {s : State} {a : U256} {bs : List Byte}

theorem exec_tobe : exec .tobe s = encodeOp (bytesBE 32) s := rfl
theorem exec_tole : exec .tole s = encodeOp (bytesLE 32) s := rfl
theorem exec_frombe : exec (.frombe dst) s = decodeOp valueBE dst s := rfl
theorem exec_fromle : exec (.fromle dst) s = decodeOp valueLE dst s := rfl
theorem exec_tocompact : exec .tocompact s = encodeOp (fun a => bytesBE (compactLength s.config a) a) s := rfl

theorem encodeOp_of_value {f : U256 → List Byte} (ha : s.opa.value = some a) :
    encodeOp f s = .next (s.putString (f a)) :=
  (encodeOp_next _ _ _).2 ⟨a, ha, rfl⟩

theorem decodeOp_of_memRead {f : List Byte → Nat} (hread : memRead s.buf 0 32 = some bs) :
    decodeOp f dst s = .next (s.setDst dst (wrap (f bs))) :=
  (decodeOp_next _ _ _ _).2 ⟨bs, hread, rfl⟩

theorem exec_fromcompact_of_len_gt (hlen : bufSize < s.len.toNat) :
    exec (.fromcompact dst) s = .next (s.raiseFault .lenRange (encode (.fromcompact dst))) :=
  if_pos hlen

theorem exec_fromcompact_of_exceeded (hlo : 32 < s.len.toNat) (hhi : s.len.toNat ≤ bufSize) :
    exec (.fromcompact dst) s = .next (s.setStatus (withErr 5 s.status)) :=
  (if_neg (not_lt.2 hhi)).trans (if_pos hlo)

theorem exec_fromcompact_of_memRead (hlen : s.len.toNat ≤ 32) (hread : memRead s.buf 0 s.len.toNat = some bs) :
    exec (.fromcompact dst) s =
      .next ((s.setDst dst (wrap (valueBE bs))).setStatus (withErr 0 s.status)) := by
  have hsize : ¬bufSize < s.len.toNat := by unfold bufSize; omega
  refine ((if_neg hsize).trans (if_neg (not_lt.2 hlen))).trans ?_
  rw [withBuf, hread, withValue_some, ← State.setDst_status s dst (wrap (valueBE bs))]
  rfl

end Sys2Proof.Machine
end

/-! ### The statements -/

section
namespace Sys2Proof.Proofs
open Sys2Proof.Machine

/-- Settles O47: each decoder reads the string its encoder left, whose length is enough for the value. -/
theorem codecRoundTrips : Obligations.CodecRoundTrips := by
  intro dst s a ha
  refine ⟨⟨_, encodeOp_of_value ha, ?_⟩, ⟨_, encodeOp_of_value ha, ?_⟩,
    ⟨_, encodeOp_of_value ha, ?_, fun _ hne => ?_⟩⟩
  · rw [exec_frombe, decodeOp_of_memRead (memRead_putString s (length_bytesBE 32 a)),
      wrap_valueBE_bytesBE (uint_lt_pow_32 a)]
  · rw [exec_fromle, decodeOp_of_memRead (memRead_putString s (length_bytesLE 32 a)),
      wrap_valueLE_bytesLE (uint_lt_pow_32 a)]
  · have hle : (bytesBE (compactLength s.config a) a).length ≤ 32 :=
      (length_bytesBE _ a).trans_le (compactLength_le s.config a)
    have hlen := toNat_len_putString s (hle.trans_lt (by decide))
    rw [exec_fromcompact_of_memRead (hlen.trans_le hle) (memRead_putString s hlen.symm),
      wrap_valueBE_bytesBE (uint_lt_pow_compactLength s.config a)]
  · refine ⟨_, ?_, byteAt_compactLength_pred_ne_zero s.config hne⟩
    rw [State.putString_buf, bufRead_memWrite_bytesBE, if_pos (compactLength_pos s.config hne), Nat.sub_zero]

/-- Settles O42: both encoders store the bytes of OPA, in the one order or the other. -/
theorem fixedEncodingResults : Obligations.FixedEncodingResults := by
  intro s a ha
  rw [exec_tobe, exec_tole, encodeOp_of_value ha, encodeOp_of_value ha,
    putString_of_length_lt s (by rw [length_bytesBE]; decide), length_bytesBE,
    putString_of_length_lt s (by rw [length_bytesLE]; decide), length_bytesLE]
  exact ⟨⟨_, rfl, bufRead_memWrite_bytesBE s.buf 32 a⟩, ⟨_, rfl, bufRead_memWrite_bytesLE s.buf 32 a⟩⟩

/-- Settles O43: the string read is the 32 bytes, and neither decoder looks at LEN. -/
theorem fixedDecodingResults : Obligations.FixedDecodingResults := by
  intro dst s bs hlen hbytes
  have hread : memRead s.buf 0 32 = some bs := memRead_of_bufRead hlen (by simpa using hbytes)
  rw [exec_frombe, exec_fromle, decodeOp_of_memRead hread, decodeOp_of_memRead hread, wrap_valueBE, wrap_valueLE]
  exact ⟨rfl, rfl⟩

/-- Settles O44: the compact length is the least that holds a value other than 0. -/
theorem compactEncodingResult : Obligations.CompactEncodingResult := by
  intro s a ha
  have hle := compactLength_le s.config a
  rw [exec_tocompact, encodeOp_of_value ha, putString_of_length_lt s (by rw [length_bytesBE]; omega), length_bytesBE]
  refine ⟨compactLength s.config a, _, rfl, hle, uint_lt_pow_compactLength s.config a,
    fun hne => ⟨compactLength_pos s.config hne, pow_compactLength_pred_le s.config hne⟩, fun hzero => ?_,
    bufRead_memWrite_bytesBE s.buf _ a⟩
  rw [hzero, compactLength_zero]

/-- Settles O45: a LEN of at most 32 passes both checks, and one above 512 fails the first. -/
theorem compactDecodingResult : Obligations.CompactDecodingResult := by
  intro dst s
  refine ⟨fun bs hlen hle hbytes => ?_, exec_fromcompact_of_len_gt⟩
  have hread : memRead s.buf 0 s.len.toNat = some bs := memRead_of_bufRead hlen (by simpa using hbytes)
  rw [exec_fromcompact_of_memRead hle hread, wrap_valueBE]

/-- Settles O46: the second check stands before the read of BUF. -/
theorem compactLengthExceeded : Obligations.CompactLengthExceeded := fun _ _ hlo hhi =>
  exec_fromcompact_of_exceeded hlo hhi

end Sys2Proof.Proofs
end

/-! SUPPORT. Faults and errors (family 60_exceptions): the three outcomes of a command, what an access keeps of the
fault record and the results, that every step keeps a fault record true, and that no access but a command, a read of
STATUS and a reset looks at STATUS. -/

/-! ### The three outcomes of a command (60_exceptions.md R210, R212, R216) -/

section
namespace Sys2Proof.Machine

/-- The causes a command can take: those of its own row of 60_exceptions.md R211, and ILLEGAL_COMMAND on a term that no
word decodes to. -/
def MayRaise (cfg : Config) (cause : FaultCause) (i : Instr) : Prop :=
  raisesCause cfg cause (.ok i) ∨ (cause = .illegalCommand ∧ i.wellFormed = false)

/-- A command that some word decodes to takes the causes of its own row only. -/
theorem MayRaise.raisesCause_decode {cfg : Config} {cause : FaultCause} {c : Word} {i : Instr}
    (h : MayRaise cfg cause i) (hd : decode c = .ok i) : raisesCause cfg cause (decode c) := by
  obtain hrow | ⟨-, hill⟩ := h
  · exact hd ▸ hrow
  · exact absurd (hill.symm.trans (decode_eq_ok.1 hd).1) Bool.false_ne_true

variable {i : Instr} {s t : State}

/-- A command that gives a next state takes a fault it can raise, reports an error, or completes and keeps the fault
record. -/
theorem exec_outcome (h : exec i s = .next t) :
    (∃ cause, MayRaise s.config cause i ∧ t = s.raiseFault cause (encode i)) ∨
    (∃ kind : ErrKind, t = s.setStatus (withErr kind.code s.status)) ∨
    (statusFault t.status = statusFault s.status ∧ statusFcause t.status = statusFcause s.status ∧
      t.fcmd = s.fcmd ∧ (writesErr i = true → statusErr t.status = 0)) := by
  cases exec_effect h with
  | fault cause hcause => exact .inl ⟨cause, hcause, rfl⟩
  | error kind => exact .inr (.inl ⟨kind, rfl⟩)
  | result dst v hdst herr => simp [herr]
  | checked dst v ovf hdst hovf herr => simp [herr]
  | quotRem dst q r hdst hres2 herr => simp [herr]
  | parsed dst v => simp [errOk]
  | string bs hlen hbuf herr => simp [herr]
  | digits neg bs hlen hbuf hneg herr => simp [herr]

/-- A command run without a fault leaves no fault, or raises one on its own word. -/
theorem exec_noFault_or_raiseFault (hf : statusFault s.status = false) (h : exec i s = .next t) :
    statusFault t.status = false ∨ ∃ cause, MayRaise s.config cause i ∧ t = s.raiseFault cause (encode i) := by
  obtain hfault | ⟨kind, rfl⟩ | ⟨hkeep, -⟩ := exec_outcome h
  · exact .inr hfault
  · exact .inl (by simpa using hf)
  · exact .inl (hkeep.trans hf)

/-- Fault entry keeps every bit of STATUS but FAULT and FCAUSE (60_exceptions.md R212). -/
theorem getLsbD_raiseFault_status (s : State) (cause : FaultCause) (word : Word) {j : Nat} (h8 : j ≠ 8)
    (h12 : ¬(12 ≤ j ∧ j < 16)) : (s.raiseFault cause word).status.getLsbD j = s.status.getLsbD j := by
  rw [State.raiseFault_status, withFcause, getLsbD_putBits, if_neg (by omega), withFault, getLsbD_putBits,
    if_neg (by omega)]

end Sys2Proof.Machine
end

/-! ### What an access keeps of the fault record and the results (60_exceptions.md R214, R217) -/

section
namespace Sys2Proof.Machine

/-- The two states have the same build parameters, fault record and results. -/
structure State.SameRecord (s t : State) : Prop where
  config : t.config = s.config
  status : t.status = s.status
  fcmd : t.fcmd = s.fcmd
  res : t.res = s.res
  res2 : t.res2 = s.res2

variable {s t : State}

theorem State.SameRecord.refl (s : State) : s.SameRecord s := ⟨rfl, rfl, rfl, rfl, rfl⟩

theorem answer_sameRecord {v : Option Reply} (ht : answer s v = .next t) : s.SameRecord t := by
  obtain ⟨r, -, rfl⟩ := (answer_next s v t).1 ht
  exact ⟨rfl, rfl, rfl, rfl, rfl⟩

/-- A bus write issues a command, or keeps the fault record and the results. -/
theorem writeTarget_sameRecord_or_issue {w : Word} {target : Target} (ht : writeTarget s w target = .next t) :
    s.SameRecord t ∨ issue w s = .next t := by
  cases target with
  | cmd => exact .inr ht
  | opa | opb | res | res2 | cnt | len | status | fcmd | reserved | buf =>
    obtain rfl := Host.Outcome.next.inj ht
    exact .inl ⟨rfl, rfl, rfl, rfl, rfl⟩

/-- An access issues a command, is a reset, or keeps the fault record and the results. -/
theorem perform_sameRecord_or_issue_or_reset {op : HostOp} (ht : perform op s = .next t) :
    s.SameRecord t ∨ (∃ c, issue c s = .next t) ∨ (op = .reset ∧ t = s.resetInput) := by
  cases op with
  | busRead width addr =>
    obtain ⟨off, -, ha⟩ := perform_busRead_next ht
    exact .inl (answer_sameRecord ha)
  | busWrite width addr data =>
    obtain ⟨off, -, hw⟩ := perform_busWrite_next ht
    exact (writeTarget_sameRecord_or_issue hw).imp_right fun hi => .inl ⟨data, hi⟩
  | readReg r => exact .inl (answer_sameRecord ht)
  | writeOperand r v =>
    cases r with
    | opa | opb =>
      obtain rfl := Host.Outcome.next.inj ht
      exact .inl ⟨rfl, rfl, rfl, rfl, rfl⟩
  | writeControl r v =>
    cases r with
    | cmd => exact .inr (.inl ⟨v, ht⟩)
    | cnt | len =>
      obtain rfl := Host.Outcome.next.inj ht
      exact .inl ⟨rfl, rfl, rfl, rfl, rfl⟩
  | readBuf i => exact .inl (answer_sameRecord ht)
  | writeBuf i b =>
    obtain rfl := Host.Outcome.next.inj ht
    exact .inl ⟨rfl, rfl, rfl, rfl, rfl⟩
  | reset => exact .inr (.inr ⟨rfl, (Host.Outcome.next.inj ht).symm⟩)

theorem State.resetInput_noFault (s : State) : statusFault s.resetInput.status = false := by simp [statusFault]

/-- A command word issued while FAULT = 1 is ignored (60_exceptions.md R214). -/
theorem issue_of_fault {c : Word} (hf : statusFault s.status = true) : issue c s = .next s := if_pos hf

theorem perform_of_writesCmd {op : HostOp} (h : writesCmd s.config op) : ∃ c, perform op s = issue c s := by
  obtain ⟨c, rfl | rfl⟩ := h
  · exact ⟨c, rfl⟩
  · exact ⟨c, perform_busWrite_cmd s c⟩

end Sys2Proof.Machine
end

/-! ### A true fault record is kept by every command, access and step (60_exceptions.md R211, R213) -/

section
namespace Sys2Proof.Machine
variable {s t : State}

theorem State.faultRecordTrue_of_noFault (hf : statusFault s.status = false) : s.FaultRecordTrue :=
  fun h => absurd (hf.symm.trans h) Bool.false_ne_true

theorem State.faultRecordTrue_raiseFault {cause : FaultCause} {c : Word}
    (h : raisesCause s.config cause (decode c)) : (s.raiseFault cause c).FaultRecordTrue :=
  fun _ => ⟨cause, s.raiseFault_fcause cause c, h⟩

theorem State.FaultRecordTrue.setHostOps (h : s.FaultRecordTrue) (ops : List HostOp) :
    (s.setHostOps ops).FaultRecordTrue := h

theorem State.FaultRecordTrue.of_sameRecord (h : s.FaultRecordTrue) (hst : s.SameRecord t) :
    t.FaultRecordTrue := by
  unfold State.FaultRecordTrue
  rw [hst.config, hst.status, hst.fcmd]
  exact h

/-- The command of a word either leaves no fault, or raises a cause of its own row on that word. -/
theorem exec_faultRecordTrue {c : Word} {i : Instr} (hf : statusFault s.status = false) (hd : decode c = .ok i)
    (ht : exec i s = .next t) : t.FaultRecordTrue := by
  obtain hnone | ⟨cause, hcause, rfl⟩ := exec_noFault_or_raiseFault hf ht
  · exact State.faultRecordTrue_of_noFault hnone
  · rw [(decode_eq_ok.1 hd).2]
    exact State.faultRecordTrue_raiseFault (hcause.raisesCause_decode hd)

theorem issue_faultRecordTrue {c : Word} (h : s.FaultRecordTrue) (ht : issue c s = .next t) :
    t.FaultRecordTrue := by
  obtain ⟨-, hi⟩ | ⟨-, ⟨e, hd⟩, hi⟩ | ⟨hf, i, hd, hi⟩ := issue_cases c s
  · obtain rfl := Host.Outcome.next.inj (hi.symm.trans ht)
    exact h
  · obtain rfl := Host.Outcome.next.inj (hi.symm.trans ht)
    exact State.faultRecordTrue_raiseFault (hd ▸ trivial)
  · exact exec_faultRecordTrue hf hd (hi.symm.trans ht)

theorem perform_faultRecordTrue {op : HostOp} (h : s.FaultRecordTrue) (ht : perform op s = .next t) :
    t.FaultRecordTrue := by
  obtain hst | ⟨c, hi⟩ | ⟨-, rfl⟩ := perform_sameRecord_or_issue_or_reset ht
  · exact h.of_sameRecord hst
  · exact issue_faultRecordTrue h hi
  · exact State.faultRecordTrue_of_noFault s.resetInput_noFault

end Sys2Proof.Machine
end

/-! ### What does not look at STATUS (60_exceptions.md R214) -/

section
namespace Sys2Proof.Machine

/-- An outcome with another word in STATUS. -/
def Result.setStatus (w : Word) : Result → Result
  | .next t => .next (t.setStatus w)
  | .fault f => .fault f
  | .refused r => .refused r

variable (w : Word) (s : State)

theorem answer_setStatus (v : Option Reply) : answer (s.setStatus w) v = Result.setStatus w (answer s v) := by
  cases v <;> rfl

theorem readTarget_setStatus {target : Target} (h : target ≠ .status) :
    readTarget (s.setStatus w) target = readTarget s target := by
  cases target with
  | status => exact absurd rfl h
  | opa | opb | res | res2 | cnt | len | cmd | fcmd | reserved | buf => rfl

theorem readRegister_setStatus {r : RegName} (h : r ≠ .status) :
    readRegister (s.setStatus w) r = readRegister s r := by
  cases r with
  | status => exact absurd rfl h
  | opa | opb | res | res2 | cnt | len | cmd | fcmd => rfl

theorem writeTarget_setStatus (data : Word) {target : Target} (h : target ≠ .cmd) :
    writeTarget (s.setStatus w) data target = Result.setStatus w (writeTarget s data target) := by
  cases target with
  | cmd => exact absurd rfl h
  | opa | opb | res | res2 | cnt | len | status | fcmd | reserved | buf => rfl

/-- An access that issues no command, does not read STATUS and is no reset does the same whatever STATUS holds. -/
theorem perform_setStatus {op : HostOp} (hcmd : ¬writesCmd s.config op) (hstatus : ¬readsStatus s.config op)
    (hreset : op ≠ .reset) : perform op (s.setStatus w) = Result.setStatus w (perform op s) := by
  cases op with
  | busRead width addr =>
    simp only [perform, State.setStatus_config]
    cases hoff : windowOffset s.config width addr with
    | none => rfl
    | some off =>
      obtain ⟨rfl, rfl, -⟩ := windowOffset_some _ _ _ _ hoff
      have htarget : targetOf off ≠ .status := fun h => hstatus (.inr (by rw [targetOf_status off h]))
      simp only [readTarget_setStatus w s htarget]
      exact answer_setStatus w s _
  | busWrite width addr data =>
    simp only [perform, State.setStatus_config]
    cases hoff : windowOffset s.config width addr with
    | none => rfl
    | some off =>
      obtain ⟨rfl, rfl, -⟩ := windowOffset_some _ _ _ _ hoff
      have htarget : targetOf off ≠ .cmd := fun h => hcmd ⟨data, .inr (by rw [targetOf_cmd off h])⟩
      exact writeTarget_setStatus w s data htarget
  | readReg r =>
    have hr : r ≠ .status := fun h => hstatus (.inl (h ▸ rfl))
    simp only [perform, readRegister_setStatus w s hr]
    exact answer_setStatus w s _
  | writeOperand r v => cases r <;> rfl
  | writeControl r v =>
    cases r with
    | cmd => exact absurd ⟨v, .inl rfl⟩ hcmd
    | cnt | len => rfl
  | readBuf i => exact answer_setStatus w s _
  | writeBuf i b => rfl
  | reset => exact absurd rfl hreset

variable {s} in
/-- A read of STATUS answers with STATUS, in either view. -/
theorem perform_of_readsStatus {op : HostOp} (h : readsStatus s.config op) :
    perform op s = .next { s with replies := .word s.status :: s.replies } := by
  obtain rfl | rfl := h
  · rfl
  · exact perform_busRead_of_some (by decide) (by decide) rfl

/-- LEN stores bits 9:0 of what is written, as a mask (10_state.md R26). -/
theorem setLen_eq_and_mask : s.setLen w = { s with len := w &&& 0x3ff } := by
  have hmask : ∀ j < 32, (0x3ff : Word).getLsbD j = decide (j < 10) := by decide
  have hlen : (s.setLen w).len = w &&& 0x3ff := by
    apply BitVec.eq_of_getLsbD_eq
    intro j hj
    rw [getLsbD_setLen, BitVec.getLsbD_and, hmask j hj]
    by_cases h : j < 10
    · simp [h]
    · simp [h]
  rw [← hlen]
  rfl

end Sys2Proof.Machine
end

/-! ### The statements -/

section
namespace Sys2Proof.Proofs
open Sys2Proof.Machine

/-- Settles O59: a step performs an access, and only a command issued without a fault writes a new record. -/
theorem stepKeepsTheFaultRecordTrue : Obligations.StepKeepsTheFaultRecordTrue := by
  intro s t h ht
  cases hops : s.hostOps with
  | nil =>
    rw [step_nil hops] at ht
    exact Host.Outcome.next.inj ht ▸ h
  | cons op rest =>
    rw [step_cons hops] at ht
    exact perform_faultRecordTrue (h.setHostOps rest) ht

/-- Settles O8: only an issued command looks at FAULT. -/
theorem faultBlocksCommandsOnly : Obligations.FaultBlocksCommandsOnly := by
  intro s
  refine ⟨fun hf op hop => ?_, fun op w hcmd hstatus hreset => ?_, fun op => perform_of_readsStatus,
    fun v => rfl, fun v => rfl, fun n => rfl, fun n => congrArg _ (setLen_eq_and_mask n s), fun i b => rfl⟩
  · obtain ⟨c, hc⟩ := perform_of_writesCmd hop
    exact hc.trans (issue_of_fault hf)
  · rw [perform_setStatus w s hcmd hstatus hreset]
    exact ⟨fun t ht => congrArg (Result.setStatus w) ht, fun f hf => congrArg (Result.setStatus w) hf⟩

/-- Settles O9: a command issued while FAULT = 1 is ignored, and every other access but a reset keeps the record. -/
theorem onlyResetLeavesTheFault : Obligations.OnlyResetLeavesTheFault := by
  intro s t op rest hf hops ht
  rw [step_cons hops] at ht
  refine ⟨fun hop => ?_, fun hop => ?_⟩
  · have hsame : (s.setHostOps rest).SameRecord t := by
      obtain hst | ⟨c, hi⟩ | ⟨hreset, -⟩ := perform_sameRecord_or_issue_or_reset ht
      · exact hst
      · obtain rfl := Host.Outcome.next.inj ((issue_of_fault (s := s.setHostOps rest) hf).symm.trans hi)
        exact .refl _
      · exact absurd hreset hop
    exact ⟨hsame.status, hsame.fcmd, hsame.res, hsame.res2⟩
  · subst hop
    obtain rfl := Host.Outcome.next.inj ht
    exact (s.setHostOps rest).resetInput_noFault

/-- Settles O10, from the bits of fault entry and the outcomes of a command. -/
theorem faultEntryWritesOnlyTheFaultState : Obligations.FaultEntryWritesOnlyTheFaultState := by
  refine ⟨fun s cause word => ?_, fun i s t hf h ht => ?_, rfl, rfl, rfl, rfl, rfl, rfl⟩
  · exact ⟨_, rfl, s.raiseFault_fault cause word, s.raiseFault_fcause cause word,
      fun j => getLsbD_raiseFault_status s cause word⟩
  · obtain hnone | ⟨cause, -, hraise⟩ := exec_noFault_or_raiseFault hf h
    · exact absurd (hnone.symm.trans ht) Bool.false_ne_true
    · exact ⟨cause, hraise⟩

/-- Settles O12, by the outcomes of a command. -/
theorem commandFaultsReportsOrCompletes : Obligations.CommandFaultsReportsOrCompletes := fun _ _ _ h =>
  (exec_outcome h).imp_left fun ⟨cause, _, hraise⟩ => ⟨cause, hraise⟩

/-- Settles O6: the presented access is a CMD write of a word that decodes to the command. -/
theorem idleStepAndPresentedCommand : Obligations.IdleStepAndPresentedCommand := by
  refine ⟨fun s => step_nil, fun s i hwf hf => ?_⟩
  have hword : BitVec.ofNat 32 ((encode i).toNat % 2 ^ 32) = encode i := by
    rw [Nat.mod_eq_of_lt (encode i).isLt, BitVec.ofNat_toNat, BitVec.setWidth_eq]
  refine stepRunsTheDecodedCommand (s.withFetchWord 32 (encode i).toNat) (encode i) i s.hostOps hf
    (decodeOfEncode i hwf) (.inl ?_)
  exact congrArg (fun c => HostOp.busWrite 32 (busAddr s.config 0x08c) c :: s.hostOps) hword

end Sys2Proof.Proofs
end

/-! SUPPORT. Reset and hazards (family 70_reset_and_hazards): no access changes the build parameters, a command leaves
what the reset input keeps, and a command runs exactly where the inputs it reads are written. -/

/-! ### The build parameters and what the reset input keeps (70_reset_and_hazards.md R240, R241, R244) -/

section
namespace Sys2Proof.Machine
variable {s t : State}

/-- A command writes none of the fields the reset input keeps: the parameters, the accesses presented and the
replies. -/
theorem CommandEffect.keeps_config_hostOps_replies {i : Instr} (he : CommandEffect i s t) :
    t.config = s.config ∧ t.hostOps = s.hostOps ∧ t.replies = s.replies := by
  cases he with
  | fault cause => simp
  | error kind => simp
  | result dst v => simp
  | checked dst v ovf => simp
  | quotRem dst q r => simp
  | parsed dst v => simp
  | string bs => simp
  | digits neg bs => simp

/-- The reset input gives one state to all states that agree on the fields it keeps (70_reset_and_hazards.md R240). -/
theorem State.resetInput_congr (hconfig : t.config = s.config) (hops : t.hostOps = s.hostOps)
    (hreplies : t.replies = s.replies) : t.resetInput = s.resetInput := by
  rw [State.resetInput, State.resetInput, hconfig, hops, hreplies]

theorem issue_config {c : Word} (ht : issue c s = .next t) : t.config = s.config := by
  obtain ⟨-, hi⟩ | ⟨-, -, hi⟩ | ⟨-, i, -, hi⟩ := issue_cases c s
  · obtain rfl := Host.Outcome.next.inj (hi.symm.trans ht)
    rfl
  · obtain rfl := Host.Outcome.next.inj (hi.symm.trans ht)
    exact s.raiseFault_config _ c
  · exact (exec_effect (hi.symm.trans ht)).keeps_config_hostOps_replies.1

theorem perform_config {op : HostOp} (ht : perform op s = .next t) : t.config = s.config := by
  obtain hsame | ⟨c, hi⟩ | ⟨-, rfl⟩ := perform_sameRecord_or_issue_or_reset ht
  · exact hsame.config
  · exact issue_config hi
  · exact s.resetInput_config

end Sys2Proof.Machine
end

/-! ### Commands on ready inputs (70_reset_and_hazards.md R243, 60_exceptions.md R219) -/

section
namespace Sys2Proof.Machine

/-- The outcome is a next state where the inputs are ready, and UNWRITTEN_READ where they are not. -/
def RunsExactlyIf (ready : Prop) (r : Result) : Prop :=
  (ready → ∃ t, r = .next t) ∧ (¬ready → r = .fault .unwrittenRead)

theorem RunsExactlyIf.next (t : State) : RunsExactlyIf True (.next t) :=
  ⟨fun _ => ⟨t, rfl⟩, fun h => absurd trivial h⟩

theorem RunsExactlyIf.congr {p q : Prop} {r : Result} (h : RunsExactlyIf p r) (hpq : p ↔ q) : RunsExactlyIf q r :=
  propext hpq ▸ h

/-- A read adds the value it reads to the inputs of what follows it. -/
theorem RunsExactlyIf.read {α : Type} {p : Prop} {k : α → Result} (v : Option α)
    (h : ∀ x, RunsExactlyIf p (k x)) : RunsExactlyIf (v ≠ none ∧ p) (withValue v k) := by
  cases v with
  | none => exact ⟨fun hv => absurd rfl hv.1, fun _ => rfl⟩
  | some x => exact (h x).congr ⟨fun hp => ⟨Option.some_ne_none x, hp⟩, And.right⟩

/-- A read that nothing but next states follow has its value as only input. -/
theorem RunsExactlyIf.last_read {α : Type} {k : α → Result} (v : Option α)
    (h : ∀ x, RunsExactlyIf True (k x)) : RunsExactlyIf (v ≠ none) (withValue v k) :=
  (RunsExactlyIf.read v h).congr (and_iff_left trivial)

/-- A check that ends a command before its reads takes the inputs away where it fires. -/
theorem RunsExactlyIf.check {c p : Prop} [Decidable c] {r : Result} (t : State) (h : RunsExactlyIf p r) :
    RunsExactlyIf (¬c → p) (if c then .next t else r) := by
  by_cases hc : c
  · rw [if_pos hc]
    exact (RunsExactlyIf.next t).congr ⟨fun _ hn => absurd hc hn, fun _ => trivial⟩
  · rw [if_neg hc]
    exact h.congr ⟨fun hp _ => hp, fun hp => hp hc⟩

/-- A check after the reads, with a next state either way, needs no further input. -/
theorem RunsExactlyIf.ite {c : Prop} [Decidable c] {r₁ r₂ : Result} (h₁ : RunsExactlyIf True r₁)
    (h₂ : RunsExactlyIf True r₂) : RunsExactlyIf True (if c then r₁ else r₂) := by
  split_ifs
  · exact h₁
  · exact h₂

/-- BUF is ready up to `n` exactly where a read of its first `n` bytes has a value. -/
theorem memRead_ne_none_iff_bufReady (s : State) (n : Nat) : memRead s.buf 0 n ≠ none ↔ bufReady s n := by
  simp only [memRead_ne_none_iff, bufReady, Nat.zero_add]

variable (s : State) (dst : Dst)

theorem withOperands_runsExactlyIf {k : U256 → U256 → Result} (h : ∀ a b, RunsExactlyIf True (k a b)) :
    RunsExactlyIf (opaReady s ∧ opbReady s) (withOperands s k) :=
  .read _ fun a => .last_read _ (h a)

theorem withOpaCnt_runsExactlyIf {k : U256 → Nat → Result} (h : ∀ a n, RunsExactlyIf True (k a n)) :
    RunsExactlyIf (opaReady s ∧ cntReady s) (withOpaCnt s k) :=
  .read _ fun a => .last_read _ fun n => h a n.toNat

theorem withOpa_runsExactlyIf {k : U256 → Result} (h : ∀ a, RunsExactlyIf True (k a)) :
    RunsExactlyIf (opaReady s) (withOpa s k) := .last_read _ h

theorem withBuf_runsExactlyIf {k : List Byte → Result} (n : Nat) (h : ∀ bs, RunsExactlyIf True (k bs)) :
    RunsExactlyIf (bufReady s n) (withBuf s n k) :=
  (RunsExactlyIf.last_read _ h).congr (memRead_ne_none_iff_bufReady s n)

theorem binaryOp_runsExactlyIf (f : U256 → U256 → U256) :
    RunsExactlyIf (opaReady s ∧ opbReady s) (binaryOp f dst s) :=
  withOperands_runsExactlyIf s fun _ _ => .next _

theorem checkedOp_runsExactlyIf (f : U256 → U256 → U256) (ovf : U256 → U256 → U256 → Bool) :
    RunsExactlyIf (opaReady s ∧ opbReady s) (checkedOp f ovf dst s) :=
  withOperands_runsExactlyIf s fun _ _ => .next _

theorem unaryOp_runsExactlyIf (f : U256 → U256) : RunsExactlyIf (opaReady s) (unaryOp f dst s) :=
  withOpa_runsExactlyIf s fun _ => .next _

theorem shiftOp_runsExactlyIf (f : U256 → Nat → U256) (i : Instr) :
    RunsExactlyIf (opaReady s ∧ cntReady s) (shiftOp f i dst s) :=
  withOpaCnt_runsExactlyIf s fun _ _ => .ite (.next _) (.next _)

theorem rotateOp_runsExactlyIf (f : U256 → Nat → U256) (i : Instr) :
    RunsExactlyIf (opaReady s ∧ cntReady s) (rotateOp f i dst s) :=
  withOpaCnt_runsExactlyIf s fun _ _ => .ite (.next _) (.next _)

theorem encodeOp_runsExactlyIf (f : U256 → List Byte) : RunsExactlyIf (opaReady s) (encodeOp f s) :=
  withOpa_runsExactlyIf s fun _ => .next _

theorem decodeOp_runsExactlyIf (f : List Byte → Nat) : RunsExactlyIf (bufReady s 32) (decodeOp f dst s) :=
  withBuf_runsExactlyIf s 32 fun _ => .next _

theorem execDivremU_runsExactlyIf : RunsExactlyIf (opaReady s ∧ opbReady s) (execDivremU dst s) :=
  withOperands_runsExactlyIf s fun _ _ => .ite (.next _) (.next _)

theorem execDivremS_runsExactlyIf : RunsExactlyIf (opaReady s ∧ opbReady s) (execDivremS dst s) :=
  withOperands_runsExactlyIf s fun _ _ => .ite (.next _) (.ite (.next _) (.next _))

/-- The legality check of FMT comes before its read of OPA, as a check that ends the command on an illegal term. -/
theorem fmtChecked_runsExactlyIf (letters : DigitCase) (radix : BitVec 6) (i : Instr) {k : U256 → Result}
    (h : ∀ a, RunsExactlyIf True (k a)) :
    RunsExactlyIf (fmtLegal letters radix = true → opaReady s)
      (if fmtLegal letters radix then withOpa s k else takeFault .illegalCommand i s) := by
  rw [← ite_not]
  exact (RunsExactlyIf.check _ (withOpa_runsExactlyIf s h)).congr (by rw [not_not])

theorem execFmtU_runsExactlyIf (letters : DigitCase) (radix : BitVec 6) :
    RunsExactlyIf (fmtLegal letters radix = true → opaReady s) (execFmtU letters radix s) :=
  fmtChecked_runsExactlyIf s letters radix _ fun _ => .next _

theorem execFmtS_runsExactlyIf (letters : DigitCase) (radix : BitVec 6) :
    RunsExactlyIf (fmtLegal letters radix = true → opaReady s) (execFmtS letters radix s) :=
  fmtChecked_runsExactlyIf s letters radix _ fun _ => .ite (.next _) (.next _)

/-- PARSE reads its text only where LEN and the radix pass their checks. -/
theorem parseOp_runsExactlyIf (signed : Bool) (i : Instr) (radix : BitVec 6) :
    RunsExactlyIf (s.len.toNat ≤ 512 → 2 ≤ radix.toNat → radix.toNat ≤ 36 → bufReady s s.len.toNat)
      (parseOp signed i dst radix s) := by
  refine RunsExactlyIf.congr (.check _ (.check _ (withBuf_runsExactlyIf s _ fun text => ?_))) ?_
  · cases parseText signed radix.toNat text with
    | error kind => exact .next _
    | ok acc => exact .next _
  · rw [bufSize, Nat.not_lt, not_not, and_imp]

/-- FROMCOMPACT reads its string only where LEN is at most 32; its check against BUF_SIZE fires above that. -/
theorem execFromcompact_runsExactlyIf :
    RunsExactlyIf (s.len.toNat ≤ 32 → bufReady s s.len.toNat) (execFromcompact dst s) := by
  refine (RunsExactlyIf.check _ (.check _ (withBuf_runsExactlyIf s _ fun _ => .next _))).congr ?_
  rw [bufSize, Nat.not_lt, Nat.not_lt]
  exact ⟨fun h hle => h (hle.trans (by decide)) hle, fun h _ => h⟩

/-- A command runs exactly where the inputs it reads are written. -/
theorem exec_runsExactlyIf (i : Instr) : RunsExactlyIf (inputsReady i s) (exec i s) := by
  cases i with
  | add dst | sub dst | mul dst => exact binaryOp_runsExactlyIf s dst _
  | addcU dst | addcS dst | subbU dst | subbS dst | mulwU dst | mulwS dst =>
    exact checkedOp_runsExactlyIf s dst _ _
  | shl dst | shrU dst | shrS dst => exact shiftOp_runsExactlyIf s dst _ _
  | rol dst | ror dst => exact rotateOp_runsExactlyIf s dst _ _
  | clz dst | ctz dst => exact unaryOp_runsExactlyIf s dst _
  | divremU dst => exact execDivremU_runsExactlyIf s dst
  | divremS dst => exact execDivremS_runsExactlyIf s dst
  | fmtU letters radix => exact execFmtU_runsExactlyIf s letters radix
  | fmtS letters radix => exact execFmtS_runsExactlyIf s letters radix
  | parseU dst radix | parseS dst radix => exact parseOp_runsExactlyIf s dst _ _ radix
  | tobe | tole | tocompact => exact encodeOp_runsExactlyIf s _
  | frombe dst | fromle dst => exact decodeOp_runsExactlyIf s dst _
  | fromcompact dst => exact execFromcompact_runsExactlyIf s dst

end Sys2Proof.Machine
end

/-! ### The statements -/

section
namespace Sys2Proof.Proofs
open Sys2Proof.Machine

/-- Settles O13, by the reads and checks of each operand form. -/
theorem commandRunsExactlyOnWrittenInputs : Obligations.CommandRunsExactlyOnWrittenInputs :=
  fun i s => exec_runsExactlyIf s i

/-- Settles O15: a reset overwrites every field but those that no command writes. -/
theorem resetHidesTheCommandBefore : Obligations.ResetHidesTheCommandBefore := by
  intro i s t h
  obtain ⟨hconfig, hops, hreplies⟩ := (exec_effect h).keeps_config_hostOps_replies
  exact congrArg Host.Outcome.next (State.resetInput_congr hconfig hops hreplies)

/-- Settles O51: a step is idle or performs an access, and no access changes a parameter. -/
theorem stepsKeepTheParameters : Obligations.StepsKeepTheParameters := by
  intro s t ht
  cases hops : s.hostOps with
  | nil =>
    rw [step_nil hops] at ht
    obtain rfl := Host.Outcome.next.inj ht
    rfl
  | cons op rest =>
    rw [step_cons hops] at ht
    exact (perform_config ht).trans (s.setHostOps_config rest)

end Sys2Proof.Proofs
end
